-- ==== Sys2Proof/Word.lean ====
section
/-! DEFINITION. The word types of the block (spec/00_scope.md R10, spec/10_state.md R22): every value is
unsigned, bit 0 is the least significant bit, `a ++ b` is the spec's `{a, b}` and `BitVec.setWidth` its
`zext_N`. -/

namespace Sys2Proof

/-- A host-visible register (`REG_W = 32`, R7, R22). -/
abbrev Word := BitVec 32

/-- A segment byte, a wire byte or an opcode (`OP_W = 8`, R7, R83, R92). -/
abbrev Byte := BitVec 8

/-- A 4-bit digit lane of format DIG4 (R84). -/
abbrev Nibble := BitVec 4

end Sys2Proof
end

