-- ==== Sys2Proof/Config.lean ====
section
/-! DEFINITION. The parameters and environment oracles the spec leaves OPEN (spec/00_scope.md R7,
spec/93_implementation_defined.md U1 to U7). Each is an opaque constant with no body, so nothing can be
proved of its value. The oracles are applied to the draw counter of State: a fresh free value at each
engine step for which the input list of State holds no answer. -/

namespace Sys2Proof.Config

/-- Oracle `IOFAIL` (R7, D33, U2): whether the line operation of draw `n` fails. -/
opaque ioFail : Nat → Bool

/-- Oracle `DEVPULL` (R7, R32, D12, U1): whether the display module pulls DIO low at draw `n`. -/
opaque devPull : Nat → Bool

/-- Oracle `COLLVL` (R7, R35, D22, U4): the level of the column read at draw `n`. -/
opaque colLvl : Nat → Bool

/-- The drive state of the line whose write failed at draw `n` (R207, D11, U3). -/
opaque failedDrive : Nat → Bool

/-- The seven segment bits of table entry `d` (R7, R140, R141, U6). Seven bits wide, so that bit 7 of an
entry is 0 as R140 demands. The entries 11 to 15 do not exist in the spec; no accepted command reads them
(R85) and the model leaves them free as well. -/
opaque segBits : Nibble → BitVec 7

/-- Parameter `SEG` (R37, R140): entry 10 is the blank sentinel, `0x00`; bit 7 of every entry is 0. -/
def seg (d : Nibble) : Byte := if d = 10#4 then 0x00#8 else (segBits d).setWidth 8

/-- Parameter `T_BIT` (R7, D16, U5): the minimum duration of one bit delay. The model has no time; it
appears in the timing figures only. -/
opaque tBit : Nat

/-- The platform's choice of a 32-byte block for the register window (R63). -/
opaque baseBlock : Nat

/-- Parameter `BASE` (R63): the window's base address, aligned to 32 bytes. -/
def base : Nat := 32 * baseBlock

end Sys2Proof.Config
end

