-- ==== Sys2Proof/Syntax.lean ====
section
/-! DEFINITION. The syntax: the six commands of spec/opcode_table.json (spec/30_encoding.md R81), the host's
register accesses and its mnemonics with operands (R87, R88). -/

namespace Sys2Proof

/-- One constructor per row of the opcode table (R81). A command word has no operand field: the operand is the
value of `ARG` at acceptance (R80). -/
inductive Instr where
  /-- `0x00000001`, R130. -/
  | setSegments
  /-- `0x00000002`, R145. -/
  | showDigits
  /-- `0x00000003`, R150. -/
  | showBlanked
  /-- `0x00000010`, R180. -/
  | scan
  /-- `0x00000011`, R185. -/
  | poll
  /-- `0x00000012`, R190. -/
  | debClear
  deriving DecidableEq, Repr

/-- One host access, `RD` or `WR` of R87: its width in bits, its byte offset in the window and, for a write, its
value. Any width and offset can be written down here; R61 and U9 say which are refused. -/
inductive Access where
  | rd (width offset : Nat)
  | wr (width offset : Nat) (v : Word)
  deriving DecidableEq, Repr

/-- The command mnemonics with their operands in position order, and `WAIT_IDLE` (R87, R88). -/
inductive Mnemonic where
  | setSegments (b0 b1 b2 b3 : Byte)
  | showDigits (d0 d1 d2 d3 : Nibble)
  | showBlanked (d0 d1 d2 d3 : Nibble)
  | scan
  | poll
  | debClear
  | waitIdle
  deriving DecidableEq, Repr

end Sys2Proof
end

