-- ==== Sys2Proof/WellFormed.lean ====
section
/-! DEFINITION. Well-formed syntax. A command is one of six names with no field, so every `Instr` is
well-formed; a host access must be an aligned 32-bit access to the window (spec/20_memory.md R61, R103); a
mnemonic's digits must be in their range (spec/30_encoding.md R85). -/

namespace Sys2Proof

/-- Every command is well-formed: it has no field that could be out of range (R80, R81). -/
def Instr.wf : Instr → Bool
  | .setSegments | .showDigits | .showBlanked | .scan | .poll | .debClear => true

/-- R61, R103: 32 bits wide, at a multiple of 4, inside the window `0x00` to `0x1C`. -/
def Access.portWf (width offset : Nat) : Bool :=
  width == 32 && offset % 4 == 0 && decide (offset < 32)

/-- R61, R103, U9: the accesses that exist at the block's port. -/
def Access.wf : Access → Bool
  | .rd width offset => portWf width offset
  | .wr width offset _ => portWf width offset

/-- R85: digits 0 to 10 for SHOW_DIGITS, 0 to 9 for SHOW_BLANKED; every other operand is legal. -/
def Mnemonic.wf : Mnemonic → Bool
  | .showDigits d0 d1 d2 d3 => decide (d0 ≤ 10#4 ∧ d1 ≤ 10#4 ∧ d2 ≤ 10#4 ∧ d3 ≤ 10#4)
  | .showBlanked d0 d1 d2 d3 => decide (d0 ≤ 9#4 ∧ d1 ≤ 9#4 ∧ d2 ≤ 9#4 ∧ d3 ≤ 9#4)
  | .setSegments _ _ _ _ | .scan | .poll | .debClear | .waitIdle => true

end Sys2Proof
end

