-- ==== Sys2Proof/Decode.lean ====
section
/-! DEFINITION. Decoding and encoding of the command word CMD32 (spec/30_encoding.md R80 to R82, R88), total on
every word and every byte list. -/

namespace Sys2Proof

/-- Why a value written to `CMD` is no command (R82). All three raise ILLEGAL_COMMAND but the last, which
only the byte-wise reading of a word can meet. -/
inductive DecodeError where
  /-- `CMD[31:8] != 0`. -/
  | reservedBits
  /-- `CMD[31:8] = 0` and the opcode is `0x00`, `0x04` to `0x0F` or `0x13` to `0xFF`. -/
  | unlistedOpcode
  /-- Fewer than the four bytes of a word. -/
  | shortWord
  deriving DecidableEq, Repr

/-- R80: the OPCODE field `CMD[7:0]`. -/
def opcodeField (w : Word) : Byte := w.extractLsb' 0 8

/-- R80: the RSV field `CMD[31:8]`. -/
def reservedField (w : Word) : BitVec 24 := w.extractLsb' 8 24

/-- The opcode map of R81 on the OPCODE field alone; `CUR_OP` is read with it (R36). -/
def decodeOpcode (op : Byte) : Option Instr :=
  if op = 0x01#8 then some .setSegments
  else if op = 0x02#8 then some .showDigits
  else if op = 0x03#8 then some .showBlanked
  else if op = 0x10#8 then some .scan
  else if op = 0x11#8 then some .poll
  else if op = 0x12#8 then some .debClear
  else none

/-- R81, R82: all 32 bits are compared (mask `0xFFFFFFFF`). -/
def decode (w : Word) : Except DecodeError Instr :=
  if reservedField w ≠ 0#24 then .error .reservedBits
  else match decodeOpcode (opcodeField w) with
    | some i => .ok i
    | none => .error .unlistedOpcode

/-- A word from its four bytes, least significant first (R62). -/
def wordOfBytes (b0 b1 b2 b3 : Byte) : Word := b3 ++ b2 ++ b1 ++ b0

/-- Decoding from a byte list; answers the instruction and the bytes after it. -/
def decodeBytes : List Byte → Except DecodeError (Instr × List Byte)
  | b0 :: b1 :: b2 :: b3 :: rest =>
    match decode (wordOfBytes b0 b1 b2 b3) with
    | .ok i => .ok (i, rest)
    | .error e => .error e
  | _ => .error .shortWord

/-- The opcode of each command (R81). -/
def Instr.opcode : Instr → Byte
  | .setSegments => 0x01#8
  | .showDigits => 0x02#8
  | .showBlanked => 0x03#8
  | .scan => 0x10#8
  | .poll => 0x11#8
  | .debClear => 0x12#8

/-- R80: the command word, OPCODE in bits 7:0 and RSV 0 in bits 31:8. -/
def encode (i : Instr) : Word := 0#24 ++ i.opcode

/-- The four bytes of the command word, least significant first (R62). -/
def encodeBytes (i : Instr) : List Byte :=
  [(encode i).extractLsb' 0 8, (encode i).extractLsb' 8 8, (encode i).extractLsb' 16 8, (encode i).extractLsb' 24 8]

/-- The host's probe: the instruction read from an opcode-table word of `nbits` bits (at most one 32-bit word;
the bits above `nbits` are 0). -/
def decodeTableWord (nbits w : Nat) : Option Instr :=
  if 32 < nbits then none
  else match decode (BitVec.ofNat 32 (w % 2 ^ nbits)) with
    | .ok i => some i
    | .error _ => none

/-! ### The mnemonics' expansion (R88) -/

/-- R83: `{b3, b2, b1, b0}`. -/
def packSeg4 (b0 b1 b2 b3 : Byte) : Word := b3 ++ b2 ++ b1 ++ b0

/-- R84: `zext_32({d3, d2, d1, d0})`. -/
def packDig4 (d0 d1 d2 d3 : Nibble) : Word := (d3 ++ d2 ++ d1 ++ d0).setWidth 32

/-- `WR ARG, v` (R101). -/
def wrArg (v : Word) : Access := .wr 32 0x00 v

/-- `WR CMD, w` (R104) of a command. -/
def wrCmd (i : Instr) : Access := .wr 32 0x04 (encode i)

/-- R88: the host accesses each mnemonic stands for; of `WAIT_IDLE`, one round of its loop. -/
def Mnemonic.expand : Mnemonic → List Access
  | .setSegments b0 b1 b2 b3 => [wrArg (packSeg4 b0 b1 b2 b3), wrCmd .setSegments]
  | .showDigits d0 d1 d2 d3 => [wrArg (packDig4 d0 d1 d2 d3), wrCmd .showDigits]
  | .showBlanked d0 d1 d2 d3 => [wrArg (packDig4 d0 d1 d2 d3), wrCmd .showBlanked]
  | .scan => [wrCmd .scan]
  | .poll => [wrCmd .poll]
  | .debClear => [wrCmd .debClear]
  | .waitIdle => [.rd 32 0x08]

/-- R88: whether the expansion goes round again, by the value `s` its last read returned: `WAIT_IDLE` does until
`s[0] = 0`, the others never. -/
def Mnemonic.again : Mnemonic → Word → Bool
  | .waitIdle, s => s.getLsbD 0
  | .setSegments _ _ _ _, _ | .showDigits _ _ _ _, _ | .showBlanked _ _ _ _, _ | .scan, _ | .poll, _ | .debClear, _ =>
    false

end Sys2Proof
end

