-- ==== Sys2Proof/Machine/State.lean ====
section
/-! DEFINITION. The state of the block (spec/10_state.md), plain data, with the reasons a step can stop and the
state right after reset (R43). -/

namespace Sys2Proof.Machine

/-- A scanned key, `0..11` (R12, R171). -/
abbrev Key := Fin 12

/-- The fault causes of R201; the reserved codes 6 to 15 are never produced (U13), so they are no constructors. -/
inductive Cause where
  | none
  | ioDrive
  | ioRead
  | ioInit
  | illegalCommand
  | illegalOperand
  deriving DecidableEq, Repr

/-- The fields of `STATUS` (R25). Bit 3 is reserved and reads 0; the word is `Status.word` of Machine/Flags. -/
structure Status where
  busy : Bool
  fault : Bool
  ovr : Bool
  cause : Cause
  faultOp : Byte
  faultStep : BitVec 16
  deriving DecidableEq, Repr

/-- R25: every field of `STATUS` at its reset value. -/
def Status.clear : Status :=
  { busy := false, fault := false, ovr := false, cause := .none, faultOp := 0#8, faultStep := 0#16 }

/-- The output lines a `LineWrite` names (R13). -/
inductive OutLine where
  | clk
  | dio
  | row0
  | row1
  | row2
  | row3
  deriving DecidableEq, Repr

/-- The lines a `LineRead` names (R13): `DIO` or `COL0` to `COL2`. -/
inductive InLine where
  | dio
  | col (c : Fin 3)
  deriving DecidableEq, Repr

/-- The drive bits `CLK_DRV`, `DIO_DRV` and `ROW_DRV[0]` to `ROW_DRV[3]` (R31, R34): true is released or
high, false is driven low. -/
structure Drive where
  clk : Bool
  dio : Bool
  row0 : Bool
  row1 : Bool
  row2 : Bool
  row3 : Bool
  deriving DecidableEq, Repr

/-- R33, R34: both display lines released and all rows high. -/
def Drive.idle : Drive := { clk := true, dio := true, row0 := true, row1 := true, row2 := true, row3 := true }

/-- The micro-operation primitives (R13). -/
inductive MicroOp where
  | write (l : OutLine) (v : Bool)
  | read (l : InLine)
  | delay
  deriving DecidableEq, Repr

/-- The events of the wire trace (R40, R41). -/
inductive Event where
  /-- `W(L, v)`. -/
  | w (l : OutLine) (v : Bool)
  /-- `R(L, v)`. -/
  | r (l : InLine) (v : Bool)
  /-- `D`. -/
  | d
  /-- `RESET`. -/
  | reset
  /-- `W(L, ?)` with the mark `FAIL`. -/
  | wFail (l : OutLine)
  /-- `R(L, ?)` with the mark `FAIL`. -/
  | rFail (l : InLine)
  deriving DecidableEq, Repr

/-- What the environment answers in one engine step (R7, R9). A step that needs none of it uses none of it. -/
structure Answer where
  /-- `IOFAIL`: the line operation fails (U2). -/
  fail : Bool
  /-- `DEVPULL`: the display module pulls DIO low (U1). -/
  pull : Bool
  /-- `COLLVL`: the level of the column read (U4). -/
  col : Bool
  /-- The drive state left on a line whose write fails (U3). -/
  held : Bool
  deriving DecidableEq, Repr

/-- One step of one agent (R9): the host's access, the engine's step with the environment's answer, or reset. -/
inductive Turn where
  | host (a : Access)
  | engine (a : Answer)
  | reset
  deriving DecidableEq, Repr

/-- The whole state. The first eleven fields are the spec's; `scanHit`, `reads`, `turns` and `drawn` are the
model's own (INVENTORY.md, log entries 1 to 4). -/
structure State where
  /-- `ARG` (R23). -/
  arg : Word
  /-- `STATUS` (R25). -/
  status : Status
  /-- `KEYRES` (R26). -/
  keyRes : Word
  /-- `KEYEVT` (R27). -/
  keyEvt : Word
  /-- `PREV` (R28). -/
  prev : Word
  /-- `CLK_DRV`, `DIO_DRV`, `ROW_DRV` (R31, R34); `LINES` reads them (R29). -/
  drive : Drive
  /-- `CUR_OP` (R36). -/
  curOp : Byte
  /-- `ARG_L` (R36). -/
  argL : Word
  /-- `SEQ_IDX` (R21, R36). -/
  seqIdx : BitVec 16
  /-- `K_TMP` (R36). -/
  kTmp : Option Key
  /-- The wire trace, oldest event first (R40). -/
  trace : List Event
  /-- Part of the position in the scan's sequence, which R36 leaves to the model: the key whose column has read
  low and whose row is to be restored by the next micro-operation (R173). -/
  scanHit : Option Key
  /-- What the host's reads have returned, oldest first (R100: "return"). -/
  reads : List Word
  /-- The inputs: the agents' coming turns, next first (R9). Where it is empty the engine runs on. -/
  turns : List Turn
  /-- How many engine steps have drawn from the oracles of Config, having found no turn in `turns`. -/
  drawn : Nat
  deriving DecidableEq, Repr

/-- Why the machine stops. The block's own faults (R200) do not stop it: they are next states with
`STATUS.FAULT = 1`. -/
inductive Fault where
  /-- Raised by an engine step with `BUSY = 1` and a `CUR_OP` that is neither a command nor the line
  initialization's 0x00; the spec gives no sequence for it (R110) and no run reaches it. Safe. -/
  | noSequence (op : Byte)
  deriving DecidableEq, Repr

/-- Why the model has no transition. -/
inductive Refusal where
  /-- An instruction whose arm has no meaning yet. Raised by no arm of this model. Safe. -/
  | notModelled (mnemonic : String)
  /-- A host access that is not an aligned 32-bit access to the window, which R61 and U9 have a model refuse.
  Safe. -/
  | badAccess (a : Access)
  deriving DecidableEq, Repr

/-- R43: the state after a reset whose line initialization succeeds, with the trace of V70 and no input
waiting. -/
def State.reset : State :=
  { arg := 0#32
    status := Status.clear
    keyRes := 0#32
    keyEvt := 0#32
    prev := 0#32
    drive := Drive.idle
    curOp := 0#8
    argL := 0#32
    seqIdx := 6#16
    kTmp := none
    trace := [.reset, .w .clk true, .w .dio true, .w .row0 true, .w .row1 true, .w .row2 true, .w .row3 true]
    scanHit := none
    reads := []
    turns := []
    drawn := 0 }

end Sys2Proof.Machine
end

