-- ==== Sys2Proof/Machine/Operands.lean ====
section
/-! DEFINITION. Every operand form: the lanes of ARG, their legality, the digit encoder, the blanking rule and
the key encodings (spec/30_encoding.md R83 to R86, spec/41_display.md R140 to R152, spec/42_keypad.md R171,
R185, R187). -/

namespace Sys2Proof.Machine

/-! ### The lanes of ARG -/

/-- R83: `b_i = ARG_L[8i+7:8i]`. -/
def byteLane (w : Word) (i : Fin 4) : Byte := w.extractLsb' (8 * i) 8

/-- R84: `d_i = ARG_L[4i+3:4i]`. -/
def digitLane (w : Word) (i : Fin 4) : Nibble := w.extractLsb' (4 * i) 4

/-- R84: the reserved field `ARG_L[31:16]` of DIG4. -/
def dig4Reserved (w : Word) : BitVec 16 := w.extractLsb' 16 16

/-- Format SEG4, in position order (R83). -/
def seg4 (w : Word) : List Byte := [byteLane w 0, byteLane w 1, byteLane w 2, byteLane w 3]

/-- Format DIG4, in position order (R84). -/
def dig4 (w : Word) : List Nibble := [digitLane w 0, digitLane w 1, digitLane w 2, digitLane w 3]

/-- R85: the reserved half is 0 and every digit is at most `top`. -/
def dig4Legal (top : Nibble) (w : Word) : Bool :=
  dig4Reserved w == 0#16 && (dig4 w).all fun d => decide (d ≤ top)

/-- The table of R85. -/
def operandLegal : Instr → Word → Bool
  | .showDigits, w => dig4Legal 10#4 w
  | .showBlanked, w => dig4Legal 9#4 w
  | .setSegments, _ | .scan, _ | .poll, _ | .debClear, _ => true

/-! ### The digit encoder and the blanking rule -/

/-- R143: the separator bit, for position 1 and no other. -/
def separator (i : Nat) : Byte := if i = 1 then 0x80#8 else 0x00#8

/-- R144: `ENC(d, i) = SEG[d] OR (i = 1 ? 0x80 : 0x00)`, for any segment table. -/
def enc (table : Nibble → Byte) (d : Nibble) (i : Nat) : Byte := table d ||| separator i

/-- R145: the bytes of four digits, in position order. -/
def encDigits (table : Nibble → Byte) (ds : List Nibble) : List Byte := ds.mapIdx fun i d => enc table d i

/-- R151: a leading 0 becomes the blank sentinel 10, up to the first digit that is not 0; the last digit is
never blanked. -/
def blank : List Nibble → List Nibble
  | [] => []
  | [d] => [d]
  | d :: ds => if d = 0#4 then 10#4 :: blank ds else d :: ds

/-- The data bytes SET_SEGMENTS sends: verbatim (R130, C2). -/
def setSegmentsBytes (argL : Word) : List Byte := seg4 argL

/-- The data bytes SHOW_DIGITS sends (R145). -/
def showDigitsBytes (table : Nibble → Byte) (argL : Word) : List Byte := encDigits table (dig4 argL)

/-- The data bytes SHOW_BLANKED sends (R150). -/
def showBlankedBytes (table : Nibble → Byte) (argL : Word) : List Byte := encDigits table (blank (dig4 argL))

/-! ### Keys -/

/-- R171: `k = r * 3 + c`. -/
def keyOf (r : Fin 4) (c : Fin 3) : Key := ⟨r * 3 + c, by omega⟩

/-- The 4-bit KEY field of a key (R26). -/
def keyBits (k : Key) : Nibble := BitVec.ofNat 4 k

/-- `ENCKEY` (R26, R180): `NONE -> 0x00`, `SOME(k) -> 0x10 + k`. -/
def encKey : Option Key → Word
  | none => 0#32
  | some k => (1#1 ++ keyBits k).setWidth 32

/-- `DECKEY` (R28, R185): `PRESENT` is bit 4, `KEY` is bits 3:0. -/
def decKey (w : Word) : Option Nibble := if w.getLsbD 4 then some (w.extractLsb' 0 4) else none

/-- R187: `DIGIT(k) = (k + 1) mod 10`. -/
def keyDigit (k : Key) : Nibble := BitVec.ofNat 4 ((k + 1) % 10)

/-- R27, R185: `zext_32({1, DIGIT(k), k})`. -/
def keyEvent (k : Key) : Word := (1#1 ++ keyDigit k ++ keyBits k).setWidth 32

end Sys2Proof.Machine
end

