-- ==== Sys2Proof/Machine/Flags.lean ====
section
/-! DEFINITION. The flags and the assembled register words: STATUS and LINES as the host reads them, the cause
codes, and the edge detector's acceptance (spec/10_state.md R25, R29, R39, spec/60_exceptions.md R201,
spec/42_keypad.md R185, R186). -/

namespace Sys2Proof.Machine

/-- R201: the cause codes. -/
def Cause.code : Cause → BitVec 4
  | .none => 0#4
  | .ioDrive => 1#4
  | .ioRead => 2#4
  | .ioInit => 3#4
  | .illegalCommand => 4#4
  | .illegalOperand => 5#4

/-- R25: FAULT_STEP in 31:16, FAULT_OP in 15:8, CAUSE in 7:4, 0 in bit 3, then OVR, FAULT and BUSY. -/
def Status.word (t : Status) : Word :=
  t.faultStep ++ t.faultOp ++ t.cause.code ++ 0#1 ++ BitVec.ofBool t.ovr ++ BitVec.ofBool t.fault ++ BitVec.ofBool t.busy

/-- R29, R100: `zext_32({ROW_DRV[3:0], 0b00, DIO_DRV, CLK_DRV})`. -/
def Drive.word (d : Drive) : Word :=
  (BitVec.ofBool d.row3 ++ BitVec.ofBool d.row2 ++ BitVec.ofBool d.row1 ++ BitVec.ofBool d.row0 ++ 0#2 ++
    BitVec.ofBool d.dio ++ BitVec.ofBool d.clk).setWidth 32

/-- R185, R186: a keystroke is accepted when the sample is a key and differs from the previous poll's sample. -/
def accepted (k : Option Key) (prev : Word) : Bool := k.isSome && (k.map keyBits != decKey prev)

/-- R185: what POLL writes to `KEYEVT`. -/
def pollEvent (k : Option Key) (prev : Word) : Word :=
  match k with
  | some key => if accepted k prev then keyEvent key else 0#32
  | none => 0#32

/-- R110, R209: the engine has a step while `BUSY = 1` and `FAULT = 0`. -/
def Status.engineEnabled (t : Status) : Bool := t.busy && !t.fault

end Sys2Proof.Machine
end

