-- ==== Sys2Proof/Machine/Ops.lean ====
section
/-! DEFINITION. The shared operations: the register window, the output lines and the wire trace, the
micro-operation primitives, acceptance and dispatch of a command, taking a fault (the block's one exception
mechanism, spec/60_exceptions.md R200, R207) and, beside it, the reset that is its only way back (R210). -/

namespace Sys2Proof.Machine

/-! ### The register window (R22, R100 to R102) -/

/-- The registers of the window (R22). -/
inductive Reg where
  | arg
  | cmd
  | status
  | keyRes
  | keyEvt
  | prev
  | lines
  | reserved
  deriving DecidableEq, Repr

/-- R22: which register stands at a byte offset; none outside the window or off a multiple of 4. -/
def regAt (offset : Nat) : Option Reg :=
  match offset with
  | 0x00 => some .arg
  | 0x04 => some .cmd
  | 0x08 => some .status
  | 0x0C => some .keyRes
  | 0x10 => some .keyEvt
  | 0x14 => some .prev
  | 0x18 => some .lines
  | 0x1C => some .reserved
  | _ => none

/-- R100: what a read returns. -/
def readReg (r : Reg) (s : State) : Word :=
  match r with
  | .arg => s.arg
  | .cmd => 0#32
  | .status => s.status.word
  | .keyRes => s.keyRes
  | .keyEvt => s.keyEvt
  | .prev => s.prev
  | .lines => s.drive.word
  | .reserved => 0#32

/-- R62: on a byte-addressed bus, the byte at window offset `4n + j` is bits `8j+7:8j` of the register at
offset `4n`. -/
def windowByte (offset : Nat) (s : State) : Option Byte :=
  (regAt (4 * (offset / 4))).map fun r => (readReg r s).extractLsb' (8 * (offset % 4)) 8

/-- R63: the window offset of a bus address, for an address inside the window at `BASE`. -/
def busOffset (address : Nat) : Option Nat :=
  if Config.base ≤ address ∧ address < Config.base + 32 then some (address - Config.base) else none

/-! ### Lines and trace -/

/-- The line `ROWr` (R34). -/
def rowLine (r : Fin 4) : OutLine :=
  match r with
  | 0 => .row0
  | 1 => .row1
  | 2 => .row2
  | 3 => .row3

/-- The drive state of a line. -/
def Drive.get (d : Drive) : OutLine → Bool
  | .clk => d.clk
  | .dio => d.dio
  | .row0 => d.row0
  | .row1 => d.row1
  | .row2 => d.row2
  | .row3 => d.row3

/-- R13: set the drive state of a line. -/
def Drive.set (d : Drive) (l : OutLine) (v : Bool) : Drive :=
  match l with
  | .clk => { d with clk := v }
  | .dio => { d with dio := v }
  | .row0 => { d with row0 := v }
  | .row1 => { d with row1 := v }
  | .row2 => { d with row2 := v }
  | .row3 => { d with row3 := v }

/-- The level a read sees: DIO is `DIO_DRV AND NOT pull` (R32), a column is the environment's (R35). -/
def lineLevel (d : Drive) (a : Answer) : InLine → Bool
  | .dio => d.dio && !a.pull
  | .col _ => a.col

/-- R40: append an event to the wire trace. -/
def State.emit (e : Event) (s : State) : State := { s with trace := s.trace ++ [e] }

/-- Set the drive state of one line (R31, R34). -/
def State.setDrive (l : OutLine) (v : Bool) (s : State) : State := { s with drive := s.drive.set l v }

/-- R110: `SEQ_IDX <- SEQ_IDX + 1`. -/
def State.advance (s : State) : State := { s with seqIdx := s.seqIdx + 1#16 }

/-- The step's agent has taken its turn. -/
def State.withTurns (ts : List Turn) (s : State) : State := { s with turns := ts }

/-! ### Taking a fault (R107, R207) -/

/-- The fault record: `FAULT`, `CAUSE`, `FAULT_OP`, `FAULT_STEP`, and `BUSY` cleared; `OVR` is kept. -/
def State.raiseFault (c : Cause) (op : Byte) (index : BitVec 16) (s : State) : State :=
  { s with status := { busy := false, fault := true, ovr := s.status.ovr, cause := c, faultOp := op, faultStep := index } }

/-- R107: a dispatch fault; nothing but `STATUS` changes. -/
def dispatchFault (c : Cause) (op : Byte) (s : State) : State := s.raiseFault c op 0#16

/-- R207: a failed `LineWrite(L, v)`: the record names `CUR_OP` and `SEQ_IDX`, the line's drive state is the
environment's bit, the other lines are held. -/
def writeFault (c : Cause) (l : OutLine) (a : Answer) (s : State) : State :=
  ((s.raiseFault c s.curOp s.seqIdx).setDrive l a.held).emit (.wFail l)

/-- R207: a failed `LineRead(L)`: every line is held. -/
def readFault (c : Cause) (l : InLine) (s : State) : State :=
  (s.raiseFault c s.curOp s.seqIdx).emit (.rFail l)

/-- R240, R241: the reset step. Every register and internal state takes its reset value but the line drive
states, and the line initialization starts. It is the only return from a fault (R210). -/
def resetStep (s : State) : State :=
  { s with
    arg := 0#32
    status := { Status.clear with busy := true }
    keyRes := 0#32
    keyEvt := 0#32
    prev := 0#32
    curOp := 0#8
    argL := 0#32
    seqIdx := 0#16
    kTmp := none
    scanHit := none
    trace := s.trace ++ [.reset] }

/-- R240, R241, U7: the state the reset step of power-on leaves, for any drive states the lines have then. No run
has gone before it: the trace holds `RESET` only. -/
def powerOn (lines : Drive) : State := resetStep { State.reset with drive := lines, trace := [] }

/-! ### Dispatch of a command request (R104 to R106) -/

/-- R106: acceptance. -/
def accept (op : Byte) (s : State) : State :=
  { s with
    curOp := op
    argL := s.arg
    seqIdx := 0#16
    kTmp := none
    scanHit := none
    status := { s.status with busy := true } }

/-- R105: overrun. -/
def overrun (s : State) : State := { s with status := { s.status with ovr := true } }

/-- R104: the request of a listed command with opcode `op`, the checks in their order; `legal` is R85's answer
on `ARG`. -/
def request (op : Byte) (legal : Bool) (s : State) : State :=
  if s.status.fault then s
  else if s.status.busy then overrun s
  else if legal then accept op s
  else dispatchFault .illegalOperand op s

/-- R104, R202: the request of a word that is no command. -/
def illegalRequest (w : Word) (s : State) : State :=
  if s.status.fault then s
  else if s.status.busy then overrun s
  else dispatchFault .illegalCommand (opcodeField w) s

/-! ### Micro-operations (R13) and completion (R111) -/

/-- R13: a `LineWrite`; `c` is the cause of its failure. -/
def lineWrite (c : Cause) (l : OutLine) (v : Bool) (a : Answer) (s : State) : State :=
  if a.fail then writeFault c l a s else ((s.setDrive l v).emit (.w l v)).advance

/-- R13: a `LineRead`; its value is kept in the trace only (R38, R124), or noted by the scan (R173). -/
def lineRead (c : Cause) (l : InLine) (a : Answer) (s : State) : State :=
  if a.fail then readFault c l s else (s.emit (.r l (lineLevel s.drive a l))).advance

/-- R13, R206: a `Delay()` cannot fail. -/
def delay (s : State) : State := (s.emit .d).advance

/-- One micro-operation of a sequence whose writes fail with cause `c`. -/
def microStep (c : Cause) (m : MicroOp) (a : Answer) (s : State) : State :=
  match m with
  | .write l v => lineWrite c l v a s
  | .read l => lineRead .ioRead l a s
  | .delay => delay s

/-- R111: `STATUS.BUSY <- 0`. -/
def finish (s : State) : State := { s with status := { s.status with busy := false } }

end Sys2Proof.Machine
end

