-- ==== Sys2Proof/Machine/Display.lean ====
section
/-! DEFINITION. The display family (spec/41_display.md): the framing primitives as micro-operation sequences and
the commands SET_SEGMENTS, SHOW_DIGITS and SHOW_BLANKED. A command's meaning `exec…` is its request (R104); its
`…Seq` is what the engine then performs (R110), and its completion commits nothing but `BUSY` (R111). -/

namespace Sys2Proof.Machine

/-! ### Framing primitives -/

/-- R120: a `LineWrite` on CLK or DIO followed by exactly one delay. -/
def writeHold (l : OutLine) (v : Bool) : List MicroOp := [.write l v, .delay]

/-- R121: `START()`. -/
def startSeq : List MicroOp := writeHold .dio false

/-- R122: `STOP()`. -/
def stopSeq : List MicroOp := writeHold .dio false ++ writeHold .clk true ++ writeHold .dio true

/-- R123: one data bit. -/
def sendBit (v : Bool) : List MicroOp := writeHold .clk false ++ writeHold .dio v ++ writeHold .clk true

/-- R123, C1: the acknowledgment clock. -/
def ackClock : List MicroOp :=
  writeHold .clk false ++ writeHold .dio true ++ writeHold .clk true ++ [.read .dio] ++ writeHold .dio false ++
    writeHold .clk false

/-- The bits of a byte in the order they are sent, bit 0 first (R64). -/
def wireBits (b : Byte) : List Bool := (List.range 8).map fun i => b.getLsbD i

/-- R123: `SEND_BYTE(b)`. -/
def sendByte (b : Byte) : List MicroOp := (wireBits b).flatMap sendBit ++ ackClock

/-- R91: a frame, from START to STOP. -/
def frame (bytes : List Byte) : List MicroOp := startSeq ++ bytes.flatMap sendByte ++ stopSeq

/-- R89, R91, R130: the three-frame update. -/
def updateSeq (bytes : List Byte) : List MicroOp :=
  frame [0x40#8] ++ frame (0xC0#8 :: bytes) ++ frame [0x8F#8]

/-- R134, R260: the least duration of a sequence, one `T_BIT` for each delay. -/
def minDuration (ops : List MicroOp) : Nat := ops.count .delay * Config.tBit

/-! ### SET_SEGMENTS -/

/-- R130. -/
def setSegmentsSeq (argL : Word) : List MicroOp := updateSeq (setSegmentsBytes argL)

/-- R104, R130: the request of SET_SEGMENTS. -/
def execSetSegments (s : State) : Host.Outcome State Fault Refusal :=
  .next (request 0x01#8 (operandLegal .setSegments s.arg) s)

/-! ### SHOW_DIGITS -/

/-- R145. -/
def showDigitsSeq (argL : Word) : List MicroOp := updateSeq (showDigitsBytes Config.seg argL)

/-- R104, R145: the request of SHOW_DIGITS. -/
def execShowDigits (s : State) : Host.Outcome State Fault Refusal :=
  .next (request 0x02#8 (operandLegal .showDigits s.arg) s)

/-! ### SHOW_BLANKED -/

/-- R150. -/
def showBlankedSeq (argL : Word) : List MicroOp := updateSeq (showBlankedBytes Config.seg argL)

/-- R104, R150: the request of SHOW_BLANKED. -/
def execShowBlanked (s : State) : Host.Outcome State Fault Refusal :=
  .next (request 0x03#8 (operandLegal .showBlanked s.arg) s)

end Sys2Proof.Machine
end

