-- ==== Sys2Proof/Machine/Keypad.lean ====
section
/-! DEFINITION. The keypad family (spec/42_keypad.md): SCAN_SEQ by its position, and the commands SCAN, POLL and
DEB_CLEAR. A command's meaning `exec…` is its request (R104); the engine then performs SCAN_SEQ (R173) and the
command's completion commits its results (R111). -/

namespace Sys2Proof.Machine

/-! ### SCAN_SEQ -/

/-- R175: the row whose five positions hold index `n`. -/
def scanRow (n : Nat) : Fin 4 := Fin.ofNat 4 (n / 5)

/-- R173, R175: the micro-operation at index `n`. Position 0 of a row drives it low; positions 1 to 3 read its
columns, unless a column has read low, when the row is restored at once; position 4 restores it. -/
def scanOpAt (n : Nat) (hit : Option Key) : Option MicroOp :=
  if 20 ≤ n then none
  else if n % 5 = 0 then some (.write (rowLine (scanRow n)) false)
  else if hit.isSome ∨ n % 5 = 4 then some (.write (rowLine (scanRow n)) true)
  else some (.read (.col (Fin.ofNat 3 (n % 5 - 1))))

/-- R173: the scan's next micro-operation; none once it has returned a key. -/
def scanNext (s : State) : Option MicroOp :=
  if s.kTmp.isSome then none else scanOpAt s.seqIdx.toNat s.scanHit

/-- R173: what a completed micro-operation of the scan notes. A column that reads low is the key found; the
write that restores a row, which ends the sequence if a key was found, sets `K_TMP`. -/
def scanNote (m : MicroOp) (a : Answer) (s : State) : State :=
  match m with
  | .read (.col c) => { s with scanHit := if a.col then none else some (keyOf (scanRow s.seqIdx.toNat) c) }
  | .write _ true => { s with kTmp := s.scanHit, scanHit := none }
  | .write _ false | .read .dio | .delay => s

/-- One micro-operation of the scan; a failing one notes nothing. -/
def scanStep (m : MicroOp) (a : Answer) (s : State) : State :=
  microStep .ioDrive m a (if a.fail then s else scanNote m a s)

/-! ### SCAN -/

/-- R104, R180: the request of SCAN. -/
def execScan (s : State) : Host.Outcome State Fault Refusal :=
  .next (request 0x10#8 (operandLegal .scan s.arg) s)

/-- R180: `KEYRES <- ENCKEY(K_TMP)`. -/
def scanCommit (s : State) : State := { s with keyRes := encKey s.kTmp }

/-! ### POLL -/

/-- R104, R185: the request of POLL. -/
def execPoll (s : State) : Host.Outcome State Fault Refusal :=
  .next (request 0x11#8 (operandLegal .poll s.arg) s)

/-- R185: `KEYRES`, `KEYEVT` and `PREV` from `K_TMP` and the previous sample. -/
def pollCommit (s : State) : State :=
  { s with keyRes := encKey s.kTmp, keyEvt := pollEvent s.kTmp s.prev, prev := encKey s.kTmp }

/-! ### DEB_CLEAR -/

/-- R104, R190: the request of DEB_CLEAR. -/
def execDebClear (s : State) : Host.Outcome State Fault Refusal :=
  .next (request 0x12#8 (operandLegal .debClear s.arg) s)

/-- R190: `PREV <- NONE`. -/
def debClearCommit (s : State) : State := { s with prev := encKey none }

end Sys2Proof.Machine
end

