-- ==== Sys2Proof/Machine/Engine.lean ====
section
/-! DEFINITION. The engine (spec/40_command_interface.md R110 to R113) and the line initialization it runs after
reset (spec/70_reset_and_hazards.md R241, R242). -/

namespace Sys2Proof.Machine

/-- R241: `LINE_INIT`. -/
def lineInitSeq : List MicroOp :=
  [.write .clk true, .write .dio true, .write .row0 true, .write .row1 true, .write .row2 true, .write .row3 true]

/-- What the engine runs while `BUSY = 1`: the line initialization (`CUR_OP = 0x00`, R241) or a command. -/
inductive Job where
  | lineInit
  | command (i : Instr)
  deriving DecidableEq, Repr

/-- The job `CUR_OP` names (R110, R241). -/
def jobOf (op : Byte) : Option Job :=
  if op = 0x00#8 then some .lineInit else (decodeOpcode op).map .command

/-- R110: the micro-operation at position `SEQ_IDX` of the job's sequence, if there is one. -/
def nextOp (j : Job) (s : State) : Option MicroOp :=
  match j with
  | .lineInit => lineInitSeq[s.seqIdx.toNat]?
  | .command .setSegments => (setSegmentsSeq s.argL)[s.seqIdx.toNat]?
  | .command .showDigits => (showDigitsSeq s.argL)[s.seqIdx.toNat]?
  | .command .showBlanked => (showBlankedSeq s.argL)[s.seqIdx.toNat]?
  | .command .scan => scanNext s
  | .command .poll => scanNext s
  | .command .debClear => none

/-- R110: perform one micro-operation. A write of the line initialization fails with IO_INIT (R242). -/
def perform (j : Job) (m : MicroOp) (a : Answer) (s : State) : State :=
  match j with
  | .lineInit => microStep .ioInit m a s
  | .command .scan => scanStep m a s
  | .command .poll => scanStep m a s
  | .command .setSegments => microStep .ioDrive m a s
  | .command .showDigits => microStep .ioDrive m a s
  | .command .showBlanked => microStep .ioDrive m a s
  | .command .debClear => microStep .ioDrive m a s

/-- R111: the completion step, `BUSY <- 0` and the job's results. -/
def complete (j : Job) (s : State) : State :=
  match j with
  | .command .scan => finish (scanCommit s)
  | .command .poll => finish (pollCommit s)
  | .command .debClear => finish (debClearCommit s)
  | .lineInit => finish s
  | .command .setSegments => finish s
  | .command .showDigits => finish s
  | .command .showBlanked => finish s

/-- R110: the engine's one enabled step, with the environment's answer. -/
def engineStep (a : Answer) (s : State) : Host.Outcome State Fault Refusal :=
  match jobOf s.curOp with
  | none => .fault (.noSequence s.curOp)
  | some j =>
    match nextOp j s with
    | some m => .next (perform j m a s)
    | none => .next (complete j s)

/-- R110, R209: the engine's turn. While `BUSY = 0` or `FAULT = 1` it has no step and the turn passes. -/
def engineTurn (a : Answer) (s : State) : Host.Outcome State Fault Refusal :=
  if s.status.engineEnabled then engineStep a s else .next s

/-- The free answer of draw `n` (Config). -/
def freeAnswer (n : Nat) : Answer :=
  { fail := Config.ioFail n, pull := Config.devPull n, col := Config.colLvl n, held := Config.failedDrive n }

/-- The engine running on with no turn waiting: the environment answers with fresh free values. -/
def freeRun (s : State) : Host.Outcome State Fault Refusal :=
  engineTurn (freeAnswer s.drawn) { s with drawn := s.drawn + 1 }

/-- A run of engine turns with the given answers, stopping at a stop. -/
def engineRun : List Answer → State → Host.Outcome State Fault Refusal
  | [], s => .next s
  | a :: as, s =>
    match engineTurn a s with
    | .next t => engineRun as t
    | .fault r => .fault r
    | .refused r => .refused r

/-- A run of `n` engine turns in an environment that answers from the state it sees (R7: the oracles as an
argument). -/
def engineRunWith (env : State → Answer) : Nat → State → Host.Outcome State Fault Refusal
  | 0, s => .next s
  | n + 1, s =>
    match engineTurn (env s) s with
    | .next t => engineRunWith env n t
    | .fault r => .fault r
    | .refused r => .refused r

end Sys2Proof.Machine
end

