-- ==== Sys2Proof/Machine/Dispatch.lean ====
section
/-! DEFINITION. One arm per command of the opcode table: the step a `CMD` write of that command takes
(spec/40_command_interface.md R104). What the engine performs of it afterwards is Machine/Engine.lean's, over the
sequences and commits of the same family files. -/

namespace Sys2Proof.Machine

open Sys2Proof

def exec (i : Instr) (s : State) : Host.Outcome State Fault Refusal :=
  match i with
  | .setSegments => Sys2Proof.Machine.execSetSegments s
  | .showDigits => Sys2Proof.Machine.execShowDigits s
  | .showBlanked => Sys2Proof.Machine.execShowBlanked s
  | .scan => Sys2Proof.Machine.execScan s
  | .poll => Sys2Proof.Machine.execPoll s
  | .debClear => Sys2Proof.Machine.execDebClear s

end Sys2Proof.Machine
end

