-- ==== Sys2Proof/Machine/HostPort.lean ====
section
/-! DEFINITION. The host's register accesses (spec/40_command_interface.md R100 to R104), the turns of the four agents
(spec/00_scope.md R9), and the mnemonics as a host issues them (spec/30_encoding.md R88). -/

namespace Sys2Proof.Machine

/-- R104: `WR CMD, w`. A word that decodes runs its command; another is an illegal request. -/
def writeCmd (w : Word) (s : State) : Host.Outcome State Fault Refusal :=
  match decode w with
  | .ok i => exec i s
  | .error _ => .next (illegalRequest w s)

/-- R101, R102, R104: a register write. -/
def writeReg (r : Reg) (v : Word) (s : State) : Host.Outcome State Fault Refusal :=
  match r with
  | .arg => .next { s with arg := v }
  | .cmd => writeCmd v s
  | .status | .keyRes | .keyEvt | .prev | .lines | .reserved => .next s

/-- R100: a register read; the value goes to the host, nothing else changes (R66). -/
def hostRead (r : Reg) (s : State) : State := { s with reads := s.reads ++ [readReg r s] }

/-- One host access; one that does not exist at the port is refused (R61, U9). -/
def hostAccess (a : Access) (s : State) : Host.Outcome State Fault Refusal :=
  if a.wf then
    match a with
    | .rd _ offset =>
      match regAt offset with
      | some r => .next (hostRead r s)
      | none => .refused (.badAccess a)
    | .wr _ offset v =>
      match regAt offset with
      | some r => writeReg r v s
      | none => .refused (.badAccess a)
  else .refused (.badAccess a)

/-! ### Turns (R9, R14) -/

/-- R9, R14: one atomic step of one agent. Reset takes the step it fires in (R240). -/
def takeTurn (turn : Turn) (s : State) : Host.Outcome State Fault Refusal :=
  match turn with
  | .reset => .next (resetStep s)
  | .host a => hostAccess a s
  | .engine a => engineTurn a s

/-- Turns taken one after another, stopping at a stop. -/
def takeTurns : List Turn → State → Host.Outcome State Fault Refusal
  | [], s => .next s
  | turn :: turns, s =>
    match takeTurn turn s with
    | .next t => takeTurns turns t
    | .fault r => .fault r
    | .refused r => .refused r

/-! ### Mnemonics (R88) -/

/-- The value the host's last read returned; 0 before any. -/
def State.lastRead (s : State) : Word := s.reads.getLast?.getD 0#32

/-- R88: a host issues a mnemonic. It makes the accesses of the expansion and, while the value read says so, goes round
again; `between` holds what the other agents do between two rounds. The answer says whether the expansion has ended:
false is a host that still waits when `between` has run out. -/
def issue (m : Mnemonic) (between : List (List Turn)) (s : State) : Host.Outcome (Bool × State) Fault Refusal :=
  match takeTurns (m.expand.map .host) s with
  | .fault r => .fault r
  | .refused r => .refused r
  | .next t =>
    if m.again t.lastRead then
      match between with
      | [] => .next (false, t)
      | turns :: rest =>
        match takeTurns turns t with
        | .next u => issue m rest u
        | .fault r => .fault r
        | .refused r => .refused r
    else .next (true, t)

end Sys2Proof.Machine
end

