-- ==== Sys2Proof/Machine/Step.lean ====
section
/-! DEFINITION. One step of the whole machine (spec/00_scope.md R9, R14): the next turn of State's input list, or
the engine running on where the list is empty. -/

namespace Sys2Proof.Machine

/-- R9, R14: the next turn, or the engine running on where none waits (log entry 3). -/
def step (s : State) : Host.Outcome State Fault Refusal :=
  match s.turns with
  | turn :: ts => takeTurn turn (s.withTurns ts)
  | [] => freeRun s

/-- Where the next command comes from: a `CMD` write by the host as the very next turn. The table's rows are one
32-bit word, bits above `nbits` 0. -/
def State.withFetchWord (s : State) (nbits w : Nat) : State :=
  { s with turns := .host (.wr 32 0x04 (BitVec.ofNat 32 (w % 2 ^ nbits))) :: s.turns }

end Sys2Proof.Machine
end

