-- ==== Sys2Proof/Machine/Matrix.lean ====
section
/-! DEFINITION. The reference key matrix (spec/42_keypad.md R170, R172): an environment for simulators and for
statements about scans. No definition of the block uses it. -/

namespace Sys2Proof.Machine

/-- The rows a drive state drives low. -/
def lowRows (d : Drive) : List (Fin 4) := [0, 1, 2, 3].filter fun r => !d.get (rowLine r)

/-- R172: column `c` reads 0 (false) if a row driven low holds a pressed key in it, and 1 otherwise. -/
def matrixLevel (pressed : List Key) (d : Drive) (c : Fin 3) : Bool :=
  !(lowRows d).any fun r => pressed.contains (keyOf r c)

/-- The column the engine reads next, if its next micro-operation is a column read. -/
def columnNext (s : State) : Option (Fin 3) :=
  match jobOf s.curOp with
  | some j =>
    match nextOp j s with
    | some (.read (.col c)) => some c
    | _ => none
  | none => none

/-- The answers of an ideal environment: nothing fails, the display module acknowledges iff `ack`, and the columns
are those of the reference matrix with the keys `pressed`. -/
def simulator (pressed : List Key) (ack : Bool) (s : State) : Answer :=
  { fail := false
    pull := ack
    col := match columnNext s with
      | some c => matrixLevel pressed s.drive c
      | none => true
    held := false }

/-- The least key of a list (R174: `min P`), none for the empty list. -/
def leastKey (pressed : List Key) : Option Key := pressed.min?

end Sys2Proof.Machine
end

