-- ==== Sys2Proof/Machine/Receiver.lean ====
section
/-! DEFINITION. The reference receiver, a model of the external display module that reads the wire trace
(spec/41_display.md R160 to R165, spec/30_encoding.md R90, R93), and the default segment table (R142). Much of it
is general knowledge by the spec's own mark (G1 to G8). No definition of the block uses it. -/

namespace Sys2Proof.Machine

/-- R142, G2: the default segment table, entries 0 to 10. The entries 11 to 15, which it does not have (N16), stay
the free ones of Config (log entry 11). -/
def defaultSeg (d : Nibble) : Byte :=
  [0x3F#8, 0x06#8, 0x5B#8, 0x4F#8, 0x66#8, 0x6D#8, 0x7D#8, 0x07#8, 0x7F#8, 0x6F#8, 0x00#8].getD d.toNat (Config.seg d)

/-- R93, G3: the seven segments and the separator, each the bit that lights it. -/
inductive Segment where
  | a
  | b
  | c
  | d
  | e
  | f
  | g
  | separator
  deriving DecidableEq, Repr

/-- R93, G3: the bit of a data byte that lights a segment. -/
def Segment.bit : Segment → Nat
  | .a => 0
  | .b => 1
  | .c => 2
  | .d => 3
  | .e => 4
  | .f => 5
  | .g => 6
  | .separator => 7

/-- R93: a set bit lights its segment. -/
def Segment.lit (x : Segment) (byte : Byte) : Bool := byte.getLsbD x.bit

/-- The first byte of a frame as R90 and R163 read it; they describe three bytes only (U17). -/
inductive WireCommand where
  /-- `0x40`: write display data, auto-increment address. -/
  | data
  /-- `0xC0`: the address pointer. -/
  | address (position : Nat)
  /-- `0x8F`: display on, with its brightness. -/
  | control (brightness : Nat)
  deriving DecidableEq, Repr

/-- R90, R163: the position and the brightness are the byte's own fields. -/
def wireCommand (b : Byte) : Option WireCommand :=
  if b = 0x40#8 then some .data
  else if b = 0xC0#8 then some (.address (b.extractLsb' 0 4).toNat)
  else if b = 0x8F#8 then some (.control (b.extractLsb' 0 3).toNat)
  else none

/-- What an open frame is for, by its first byte (R163). -/
inductive FrameKind where
  /-- No byte yet. -/
  | empty
  /-- `0x40`. -/
  | mode
  /-- `0xC0`: the position the next data byte goes to. -/
  | address (next : Nat)
  /-- `0x8F`: the brightness it sets. -/
  | control (level : Nat)
  deriving DecidableEq, Repr

/-- The open frame: the bits of the byte being received, oldest first, and what the frame is for. -/
structure OpenFrame where
  bits : List Bool
  kind : FrameKind
  deriving DecidableEq, Repr

/-- What the display is known to show (R164): the byte at each position, with the display on at a brightness. -/
structure Shown where
  bytes : List Byte
  brightness : Nat
  deriving DecidableEq, Repr

/-- The receiver. `drive` is the engine's drive of DIO and `pull` the receiver's own (R162). -/
structure Receiver where
  clk : Bool
  drive : Bool
  pull : Bool
  /-- The open frame, if there is one. -/
  current : Option OpenFrame
  /-- A `0x40` frame has set "write display data, auto-increment address" (R163). -/
  dataMode : Bool
  /-- The byte stored at each position since then (R163). -/
  stored : List (Option Byte)
  /-- What the display shows, none where R165 has a model assume nothing: it is known from the end of a complete
  update until the next START or reset. -/
  shown : Option Shown
  deriving DecidableEq, Repr

/-- Nothing stored at any of the four positions (R6). -/
def nothingStored : List (Option Byte) := [none, none, none, none]

/-- A receiver on an idle bus of which nothing is known (R165: before the first complete update). -/
def Receiver.unknown : Receiver :=
  { clk := true, drive := true, pull := false, current := none, dataMode := false, stored := nothingStored,
    shown := none }

/-- R43, R243, U8: what the module holds after a reset is unspecified, so nothing stays known of it, also where no
frame was open. -/
def Receiver.forget (r : Receiver) : Receiver :=
  { r with dataMode := false, stored := nothingStored, shown := none }

/-- The bus is idle and no frame is open. -/
def Receiver.AtRest (r : Receiver) : Prop :=
  r.clk = true ∧ r.drive = true ∧ r.pull = false ∧ r.current = none

/-- R32: the level of DIO on the wire. -/
def Receiver.dioLevel (r : Receiver) : Bool := r.drive && !r.pull

/-- A byte from its bits, the least significant first (R161). -/
def byteOfBits (bits : List Bool) : Byte := (BitVec.ofBoolListLE bits).setWidth 8

/-- R163: a whole byte of the open frame. None where the reference says nothing (U17). -/
def Receiver.take (r : Receiver) (f : OpenFrame) (b : Byte) : Option Receiver :=
  match f.kind with
  | .empty =>
    match wireCommand b with
    | some .data => some { r with dataMode := true, stored := nothingStored, current := some { f with kind := .mode } }
    | some (.address p) => some { r with current := some { f with kind := .address p } }
    | some (.control level) => some { r with current := some { f with kind := .control level } }
    | none => none
  | .address p =>
    if r.dataMode ∧ p < r.stored.length then
      some { r with stored := r.stored.set p (some b), current := some { f with kind := .address (p + 1) } }
    else none
  | .mode | .control _ => none

/-- What the display shows once a frame has ended: the stored bytes after a `0x8F` frame that follows all four of
them (R164), and nothing known of it after another frame (R165). -/
def Receiver.shownAfter (r : Receiver) (f : OpenFrame) : Option Shown :=
  match f.kind with
  | .control level =>
    if r.stored.all Option.isSome then some { bytes := r.stored.filterMap id, brightness := level } else none
  | .empty | .mode | .address _ => none

/-- R161, R162: the engine moves CLK. A rise samples a bit unless it is the acknowledgment clock's; the fall after
the eighth bit starts the pull on DIO and takes the byte, the next fall ends both. -/
def Receiver.clock (r : Receiver) (v : Bool) : Option Receiver :=
  match r.clk, v, r.current with
  | false, true, some f =>
    if r.pull then some { r with clk := true }
    else some { r with clk := true, current := some { f with bits := f.bits ++ [r.dioLevel] } }
  | true, false, some f =>
    if r.pull then some { r with clk := false, pull := false, current := some { f with bits := [] } }
    else if f.bits.length = 8 then Receiver.take { r with clk := false, pull := true } f (byteOfBits f.bits)
    else some { r with clk := false }
  | _, _, _ => some { r with clk := v }

/-- R160, R161: the engine moves DIO. While CLK is high a fall of the level is START and a rise is STOP, which discards
an incomplete byte; what a START inside a frame does is not said (R165). -/
def Receiver.data (r : Receiver) (v : Bool) : Option Receiver :=
  match r.clk, r.dioLevel, v && !r.pull with
  | true, true, false =>
    match r.current with
    | none => some { r with drive := v, current := some { bits := [], kind := .empty }, shown := none }
    | some _ => none
  | true, false, true =>
    match r.current with
    | none => some { r with drive := v }
    | some f => some { r with drive := v, current := none, shown := r.shownAfter f }
  | _, _, _ => some { r with drive := v }

/-- R160 to R165: what one event of the trace does to the receiver. None where the reference says nothing: a missing
acknowledgment, a reset or a fault in an open frame, a START inside a frame, an unrecognised byte. A reset outside a
frame leaves a receiver of which nothing is known (R243, U8), still on a bus with no frame open. -/
def Receiver.feed (r : Receiver) (e : Event) : Option Receiver :=
  match e with
  | .w .clk v => r.clock v
  | .w .dio v => r.data v
  | .r .dio v => if v ∧ r.current.isSome then none else some r
  | .reset => if r.current.isSome then none else some r.forget
  | .wFail .clk | .wFail .dio => none
  | .rFail .dio => if r.current.isSome then none else some r
  | .d => some r
  | .w .row0 _ | .w .row1 _ | .w .row2 _ | .w .row3 _ => some r
  | .wFail .row0 | .wFail .row1 | .wFail .row2 | .wFail .row3 => some r
  | .r (.col _) _ | .rFail (.col _) => some r

/-- A list of events, oldest first. -/
def Receiver.watch (r : Receiver) : List Event → Option Receiver
  | [] => some r
  | e :: es =>
    match r.feed e with
    | some r' => r'.watch es
    | none => none

end Sys2Proof.Machine
end

