-- ==== Sys2Proof/Safety.lean ====
section
/-! DEFINITION. What the claims speak of: the idle and the faulted block, and the invariant of every reachable
state (spec/10_state.md R25 to R36, spec/42_keypad.md R176, spec/60_exceptions.md R209). -/

namespace Sys2Proof.Machine

/-- The block waits for a command: `BUSY = 0` and `FAULT = 0` (R104, R243). -/
def State.Ready (s : State) : Prop := s.status.busy = false ∧ s.status.fault = false

/-- The engine has a step: `BUSY = 1` and `FAULT = 0` (R110, R209). -/
def State.Running (s : State) : Prop := s.status.busy = true ∧ s.status.fault = false

/-- R34: all rows are high. -/
def Drive.RowsHigh (d : Drive) : Prop := d.row0 = true ∧ d.row1 = true ∧ d.row2 = true ∧ d.row3 = true

/-- R33: the display bus is idle. -/
def Drive.BusIdle (d : Drive) : Prop := d.clk = true ∧ d.dio = true

/-- What successful micro-operations do to the drive states. -/
def Drive.after (d : Drive) (ops : List MicroOp) : Drive :=
  ops.foldl (fun d m => match m with
    | .write l v => d.set l v
    | .read _ | .delay => d) d

/-- R25, R201: `BUSY` and `FAULT` never hold together, and the fault record is 0 exactly while `FAULT = 0`. -/
def Status.Legal (t : Status) : Prop :=
  (t.fault = true → t.busy = false) ∧
  (t.fault = false → t.cause = .none ∧ t.faultOp = 0#8 ∧ t.faultStep = 0#16) ∧
  (t.fault = true → t.cause ≠ .none)

/-- R26, R27, R28: `KEYRES` and `PREV` encode a key or no key, `KEYEVT` an accepted key or nothing. -/
def State.ResultsLegal (s : State) : Prop :=
  (∃ k, s.keyRes = encKey k) ∧ (∃ k, s.prev = encKey k) ∧ (s.keyEvt = 0#32 ∨ ∃ k, s.keyEvt = keyEvent k)

/-- R131, R134: the sequence of a display command of the given latched operand. -/
def displaySeq (i : Instr) (argL : Word) : Option (List MicroOp) :=
  match i with
  | .setSegments => some (setSegmentsSeq argL)
  | .showDigits => some (showDigitsSeq argL)
  | .showBlanked => some (showBlankedSeq argL)
  | .scan | .poll | .debClear => none

/-- R175, R176: where a scan can be. Until it has found a key, the row of the position is low once it has been
driven, every other row is high, and a key found lies in that row at the column just read. Once it has found one,
all rows are high again and the length is R175's. -/
def State.ScanAt (s : State) : Prop :=
  let n := s.seqIdx.toNat
  match s.kTmp with
  | none =>
    n ≤ 20 ∧
    s.drive = (if n % 5 = 0 then Drive.idle else Drive.idle.set (rowLine (scanRow n)) false) ∧
    (∀ k, s.scanHit = some k → 2 ≤ n % 5 ∧ k.val = 3 * (n / 5) + (n % 5 - 2))
  | some k => s.drive = Drive.idle ∧ s.scanHit = none ∧ n = 5 * (k.val / 3) + k.val % 3 + 3

/-- Where each job can be, from the drive states it left so far (R31, R34, R133, R176, R241). -/
def State.JobAt (s : State) (j : Job) : Prop :=
  match j with
  | .lineInit => s.seqIdx.toNat ≤ 6 ∧ ∃ d : Drive, s.drive = d.after (lineInitSeq.take s.seqIdx.toNat)
  | .command .scan => s.ScanAt
  | .command .poll => s.ScanAt
  | .command .debClear => s.drive = Drive.idle ∧ s.seqIdx = 0#16
  | .command .setSegments =>
    s.seqIdx.toNat ≤ 437 ∧ s.drive = Drive.idle.after ((setSegmentsSeq s.argL).take s.seqIdx.toNat)
  | .command .showDigits =>
    dig4Legal 10#4 s.argL = true ∧ s.seqIdx.toNat ≤ 437 ∧
    s.drive = Drive.idle.after ((showDigitsSeq s.argL).take s.seqIdx.toNat)
  | .command .showBlanked =>
    dig4Legal 9#4 s.argL = true ∧ s.seqIdx.toNat ≤ 437 ∧
    s.drive = Drive.idle.after ((showBlankedSeq s.argL).take s.seqIdx.toNat)

/-- The invariant of every reachable state. -/
def State.Inv (s : State) : Prop :=
  s.status.Legal ∧
  s.ResultsLegal ∧
  (s.Ready → s.drive = Drive.idle) ∧
  (s.Running → ∃ j, jobOf s.curOp = some j ∧ s.JobAt j)

/-! ### What a run shows -/

/-- No operation fails in any of these engine turns (`IOFAIL`, R204, R205). -/
def NoFailure (answers : List Answer) : Prop := ∀ a ∈ answers, a.fail = false

/-- R40: the event a successful micro-operation of a display command appends. Every DIO read of such a command is an
acknowledgment's, with DIO released (R123), so its value is `NOT pull` (R32). -/
def displayEvent (m : MicroOp) (a : Answer) : Event :=
  match m with
  | .write l v => .w l v
  | .read .dio => .r .dio (!a.pull)
  | .read (.col c) => .r (.col c) a.col
  | .delay => .d

/-- The events of a display update that sends these data bytes, answered in turn. -/
def updateTrace (bytes : List Byte) (answers : List Answer) : List Event :=
  List.zipWith displayEvent (updateSeq bytes) answers

/-- R175: the index of key `k`'s column read in a scan that has found no key before it. -/
def readIndex (k : Key) : Nat := 5 * (k.val / 3) + 1 + k.val % 3

/-- The column of key `k` reads low in a scan with these answers, if the scan comes to read it. -/
def readsLow (answers : List Answer) (k : Key) : Bool := answers[readIndex k]?.map Answer.col == some false

/-- R174: the first key in row-major order that reads low. -/
def firstLow (answers : List Answer) : Option Key := (List.finRange 12).find? (readsLow answers)

/-- R175: the length of a scan with this result. -/
def scanLength : Option Key → Nat
  | none => 20
  | some k => 5 * (k.val / 3) + k.val % 3 + 3

/-- The events of a row in which no column reads low (R173). -/
def rowEvents (r : Fin 4) : List Event :=
  [.w (rowLine r) false, .r (.col 0) true, .r (.col 1) true, .r (.col 2) true, .w (rowLine r) true]

/-- R173: the events of a scan with this result: the rows before the key's, then the key's row up to its column. -/
def scanTrace : Option Key → List Event
  | none => rowEvents 0 ++ rowEvents 1 ++ rowEvents 2 ++ rowEvents 3
  | some k =>
    ([0, 1, 2, 3].filter fun r : Fin 4 => decide (r.val < k.val / 3)).flatMap rowEvents ++
    [.w (rowLine (Fin.ofNat 4 (k.val / 3))) false] ++
    ([0, 1, 2].filter fun c : Fin 3 => decide (c.val < k.val % 3)).map (fun c => .r (.col c) true) ++
    [.r (.col (Fin.ofNat 3 (k.val % 3))) false, .w (rowLine (Fin.ofNat 4 (k.val / 3))) true]

end Sys2Proof.Machine
end

