-- ==== Sys2Proof/Certificates/Slice0/Obligations.lean ====
section
/-! DEFINITION. The statements for the provers. "Next" is `Host.Outcome.next`. The block has no memory (R60), so no
frame speaks of one. -/

open Sys2Proof Sys2Proof.Machine

/-! ### Encoding -/

/-- Decoding the encoding of a command gives it back, as a word and as bytes. -/
def Obligations.DecodeOfEncodeIsIdentity : Prop :=
  ∀ (i : Instr) (rest : List Byte),
    decode (encode i) = .ok i ∧ decodeBytes (encodeBytes i ++ rest) = .ok (i, rest)

/-- R81: exactly six words are commands. -/
def Obligations.ExactlySixWordsDecode : Prop :=
  ∀ (w : Word),
    (decode w = .ok .setSegments ↔ w = 0x00000001#32) ∧
    (decode w = .ok .showDigits ↔ w = 0x00000002#32) ∧
    (decode w = .ok .showBlanked ↔ w = 0x00000003#32) ∧
    (decode w = .ok .scan ↔ w = 0x00000010#32) ∧
    (decode w = .ok .poll ↔ w = 0x00000011#32) ∧
    (decode w = .ok .debClear ↔ w = 0x00000012#32)

/-- One word of each family, and words of R82 that are none. -/
def Obligations.SampleWordsDecode : Prop :=
  decodeTableWord 32 0x00000001 = some .setSegments ∧
  decodeTableWord 32 0x00000011 = some .poll ∧
  decode 0x00000000#32 = .error .unlistedOpcode ∧
  decode 0x00000013#32 = .error .unlistedOpcode ∧
  decode 0x00000101#32 = .error .reservedBits

/-- R85, in arithmetic on the operand. -/
def Obligations.OperandLegalityByValue : Prop :=
  ∀ (v : Word),
    (operandLegal .showDigits v = true ↔ v.toNat < 65536 ∧ ∀ i < 4, v.toNat / 16 ^ i % 16 ≤ 10) ∧
    (operandLegal .showBlanked v = true ↔ v.toNat < 65536 ∧ ∀ i < 4, v.toNat / 16 ^ i % 16 ≤ 9) ∧
    operandLegal .setSegments v = true ∧ operandLegal .scan v = true ∧
    operandLegal .poll v = true ∧ operandLegal .debClear v = true

/-- R83, R84, R88: the lanes read what the mnemonics' expansion packs. -/
def Obligations.LanesReadPackedOperands : Prop :=
  (∀ b0 b1 b2 b3 : Byte, seg4 (packSeg4 b0 b1 b2 b3) = [b0, b1, b2, b3]) ∧
  (∀ d0 d1 d2 d3 : Nibble,
    dig4 (packDig4 d0 d1 d2 d3) = [d0, d1, d2, d3] ∧ dig4Reserved (packDig4 d0 d1 d2 d3) = 0#16)

/-! ### Dispatch of a command request -/

/-- R104: a `CMD` write of a command runs it. -/
def Obligations.StepRunsDecodedCommand : Prop :=
  ∀ (s : State) (ts : List Turn) (w : Word) (i : Instr),
    s.turns = .host (.wr 32 0x04 w) :: ts → decode w = .ok i → step s = exec i { s with turns := ts }

/-- The host's probe: a command placed as the next turn is what the next step runs, on the state it was placed in. -/
def Obligations.PlacedCommandRunsNext : Prop :=
  ∀ (s : State) (i : Instr), step (s.withFetchWord 32 (encode i).toNat) = exec i s

/-- R106: every command whose operand is legal is accepted by a ready block, with this whole frame; from the next
step on the engine performs it. -/
def Obligations.ReadyBlockAcceptsLegalCommand : Prop :=
  ∀ (s : State) (i : Instr), s.Ready → operandLegal i s.arg = true →
    ∃ t, exec i s = .next t ∧ t.Running ∧ jobOf t.curOp = some (.command i) ∧
      t = { s with
        curOp := i.opcode, argL := s.arg, seqIdx := 0#16, kTmp := none, scanHit := none,
        status := { s.status with busy := true } }

/-- R203: the two commands that check their operand, and the four that never raise ILLEGAL_OPERAND. -/
def Obligations.IllegalOperandIsADispatchFault : Prop :=
  (∀ (s : State) (i : Instr), s.Ready → operandLegal i s.arg = false →
    (i = .showDigits ∨ i = .showBlanked) ∧
    exec i s = .next
      { s with
        status :=
          { busy := false, fault := true, ovr := s.status.ovr, cause := .illegalOperand, faultOp := i.opcode,
            faultStep := 0#16 } }) ∧
  (∀ (s : State) (i : Instr), i = .setSegments ∨ i = .scan ∨ i = .poll ∨ i = .debClear → s.Ready →
    ∃ t, exec i s = .next t ∧ t.status.fault = false)

/-- R202: a word that is none of the six faults a ready block. -/
def Obligations.UnlistedWordIsADispatchFault : Prop :=
  ∀ (s : State) (ts : List Turn) (w : Word),
    s.turns = .host (.wr 32 0x04 w) :: ts → s.Ready →
    w ∉ [0x00000001#32, 0x00000002#32, 0x00000003#32, 0x00000010#32, 0x00000011#32, 0x00000012#32] →
    step s = .next
      { s with
        turns := ts
        status :=
          { busy := false, fault := true, ovr := s.status.ovr, cause := .illegalCommand,
            faultOp := w.extractLsb' 0 8, faultStep := 0#16 } }

/-- R105: a request made while a command is in progress, whatever its word. -/
def Obligations.RequestWhileBusySetsOverrunOnly : Prop :=
  ∀ (s : State) (ts : List Turn) (w : Word),
    s.turns = .host (.wr 32 0x04 w) :: ts → s.Running →
    step s = .next { s with turns := ts, status := { s.status with ovr := true } }

/-- R105: `OVR` stays 1 until reset. -/
def Obligations.OverrunStaysUntilReset : Prop :=
  ∀ (s t : State), s.status.ovr = true → step s = .next t →
    t.status.ovr = true ∨ ∃ ts, s.turns = .reset :: ts

/-- R209: a request made while the block is faulted changes nothing. -/
def Obligations.RequestWhileFaultedIsIgnored : Prop :=
  ∀ (s : State) (ts : List Turn) (w : Word),
    s.turns = .host (.wr 32 0x04 w) :: ts → s.status.fault = true → step s = .next { s with turns := ts }

/-! ### The host's other accesses -/

/-- R100: what a read of each offset returns, and that nothing else changes. -/
def Obligations.ReadReturnsRegisterAndChangesNothing : Prop :=
  ∀ (s : State) (ts : List Turn) (o : Nat) (v : Word),
    s.turns = .host (.rd 32 o) :: ts →
    (o, v) ∈ [(0x00, s.arg), (0x04, 0#32), (0x08, s.status.word), (0x0C, s.keyRes), (0x10, s.keyEvt),
      (0x14, s.prev),
      (0x18, (BitVec.ofBool s.drive.row3 ++ BitVec.ofBool s.drive.row2 ++ BitVec.ofBool s.drive.row1 ++
        BitVec.ofBool s.drive.row0 ++ 0b00#2 ++ BitVec.ofBool s.drive.dio ++ BitVec.ofBool s.drive.clk).setWidth 32),
      (0x1C, 0#32)] →
    step s = .next { s with turns := ts, reads := s.reads ++ [v] }

/-- R101: an operand write, in every state. -/
def Obligations.ArgWriteChangesArgOnly : Prop :=
  ∀ (s : State) (ts : List Turn) (v : Word),
    s.turns = .host (.wr 32 0x00 v) :: ts →
    step s = .next { s with turns := ts, arg := v } ∧ readReg .arg { s with turns := ts, arg := v } = v

/-- R102: writes to the read-only registers and to the reserved offset, in every state. -/
def Obligations.ReadOnlyWriteIsIgnored : Prop :=
  ∀ (s : State) (ts : List Turn) (o : Nat) (v : Word),
    s.turns = .host (.wr 32 o v) :: ts → o ∈ [0x08, 0x0C, 0x10, 0x14, 0x18, 0x1C] →
    step s = .next { s with turns := ts }

/-- R61, U9: an access that does not exist at the port is refused, and no other host access is. -/
def Obligations.OnlyBadAccessesAreRefused : Prop :=
  (∀ (s : State) (ts : List Turn) (width o : Nat) (v : Word),
    (width ≠ 32 ∨ o % 4 ≠ 0 ∨ 0x1C < o) →
    (s.turns = .host (.rd width o) :: ts → step s = .refused (.badAccess (.rd width o))) ∧
    (s.turns = .host (.wr width o v) :: ts → step s = .refused (.badAccess (.wr width o v)))) ∧
  (∀ (s : State) (r : Refusal), step s = .refused r →
    ∃ a ts, r = .badAccess a ∧ s.turns = .host a :: ts ∧ a.wf = false)

/-- R25, R201: the fields of `STATUS` as the host reads it, and the six cause codes. -/
def Obligations.StatusWordFields : Prop :=
  (Cause.none.code = 0#4 ∧ Cause.ioDrive.code = 1#4 ∧ Cause.ioRead.code = 2#4 ∧ Cause.ioInit.code = 3#4 ∧
    Cause.illegalCommand.code = 4#4 ∧ Cause.illegalOperand.code = 5#4) ∧
  ∀ t : Status,
    t.word.extractLsb' 0 1 = BitVec.ofBool t.busy ∧ t.word.extractLsb' 1 1 = BitVec.ofBool t.fault ∧
    t.word.extractLsb' 2 1 = BitVec.ofBool t.ovr ∧ t.word.extractLsb' 3 1 = 0#1 ∧
    t.word.extractLsb' 4 4 = t.cause.code ∧ t.word.extractLsb' 8 8 = t.faultOp ∧
    t.word.extractLsb' 16 16 = t.faultStep

/-- R29: the fields of `LINES`. -/
def Obligations.LinesWordFields : Prop :=
  ∀ d : Drive,
    d.word.getLsbD 0 = d.clk ∧ d.word.getLsbD 1 = d.dio ∧ d.word.extractLsb' 2 2 = 0#2 ∧
    d.word.getLsbD 4 = d.row0 ∧ d.word.getLsbD 5 = d.row1 ∧ d.word.getLsbD 6 = d.row2 ∧ d.word.getLsbD 7 = d.row3 ∧
    d.word.extractLsb' 8 24 = 0#24

/-- R63, R62: the bus addresses of the window, and its bytes. -/
def Obligations.BusWindowAndBytes : Prop :=
  Config.base % 32 = 0 ∧
  (∀ o < 32, busOffset (Config.base + o) = some o) ∧
  (∀ a, a < Config.base ∨ Config.base + 32 ≤ a → busOffset a = none) ∧
  (∀ (s : State) (n j : Nat) (r : Reg), j < 4 → regAt (4 * n) = some r →
    windowByte (4 * n + j) s = some ((readReg r s).extractLsb' (8 * j) 8))

/-! ### The display sequences -/

/-- R123: the layout of SEND_BYTE, and how it leaves the display lines. -/
def Obligations.SendByteLayout : Prop :=
  ∀ b : Byte,
    (∀ i : Nat, i < 8 →
      (sendByte b).extract (6 * i) (6 * i + 6) =
        [.write .clk false, .delay, .write .dio (b.getLsbD i), .delay, .write .clk true, .delay]) ∧
    (sendByte b).drop 48 =
      [.write .clk false, .delay, .write .dio true, .delay, .write .clk true, .delay, .read .dio,
        .write .dio false, .delay, .write .clk false, .delay] ∧
    (sendByte b).length = 59 ∧ (sendByte b).count .delay = 29 ∧ (sendByte b).count (.read .dio) = 1 ∧
    ∀ d : Drive, d.after (sendByte b) = { d with clk := false, dio := false }

/-- R131: the position of each part of the update, and of the acknowledgment reads. -/
def Obligations.UpdateLayout : Prop :=
  ∀ v : Word,
    let q := setSegmentsSeq v
    q.extract 0 2 = startSeq ∧ q.extract 2 61 = sendByte 0x40#8 ∧ q.extract 61 67 = stopSeq ∧
    q.extract 67 69 = startSeq ∧ q.extract 69 128 = sendByte 0xC0#8 ∧
    q.extract 128 187 = sendByte (v.extractLsb' 0 8) ∧ q.extract 187 246 = sendByte (v.extractLsb' 8 8) ∧
    q.extract 246 305 = sendByte (v.extractLsb' 16 8) ∧ q.extract 305 364 = sendByte (v.extractLsb' 24 8) ∧
    q.extract 364 370 = stopSeq ∧ q.extract 370 372 = startSeq ∧ q.extract 372 431 = sendByte 0x8F#8 ∧
    q.extract 431 437 = stopSeq ∧
    (∀ n, q[n]? = some (.read .dio) ↔ n ∈ [56, 123, 182, 241, 300, 359, 426])

/-- R134: the length of the three display commands and what it is made of. -/
def Obligations.UpdateLengthAndDuration : Prop :=
  ∀ (v : Word) (q : List MicroOp), q ∈ [setSegmentsSeq v, showDigitsSeq v, showBlankedSeq v] →
    q.length = 437 ∧ q.count (.read .dio) = 7 ∧ q.count .delay = 215 ∧
    (q.filter fun m => match m with
      | .write _ _ => true
      | .read _ | .delay => false).length = 215 ∧
    minDuration q = 215 * Config.tBit

/-- R133, R122: the drive states after a STOP and after an update of any bytes, from any drive states; the rows are
never touched. -/
def Obligations.UpdateLeavesBusIdle : Prop :=
  (∀ d : Drive, d.after stopSeq = { d with clk := true, dio := true }) ∧
  (∀ (d : Drive) (bytes : List Byte), d.after (updateSeq bytes) = { d with clk := true, dio := true })

/-- R125: where DIO_DRV changes while CLK_DRV = 1, for every four data bytes. -/
def Obligations.DataChangesUnderHighClock : Prop :=
  ∀ (b0 b1 b2 b3 : Byte) (n : Nat) (v : Bool),
    let q := updateSeq [b0, b1, b2, b3]
    let d := Drive.idle.after (q.take n)
    (q[n]? = some (.write .dio v) ∧ d.clk = true ∧ d.dio ≠ v) ↔
      (v = false ∧ n ∈ [0, 67, 370]) ∨ (v = true ∧ n ∈ [65, 368, 435]) ∨
      (v = false ∧ n ∈ [57, 124, 183, 242, 301, 360, 427])

/-- R144: the encoder, with the block's table and at every position. The digits 11 to 15, which R140 and R144 do not
have, are the model's choice of log entry 11. -/
def Obligations.EncoderSetsSeparatorAtPositionOne : Prop :=
  ∀ (d : Nibble) (i : Nat),
    (enc Config.seg d i).extractLsb' 0 7 = (Config.seg d).extractLsb' 0 7 ∧
    ((enc Config.seg d i).getLsbD 7 = true ↔ i = 1) ∧
    Config.seg 10#4 = 0x00#8

/-- R145, R150: SHOW_DIGITS performs the sequence of SET_SEGMENTS with the encoded operand, and SHOW_BLANKED the
sequence of SHOW_DIGITS with the blanked digits. -/
def Obligations.ShowCommandsReuseTheSetSegmentsSequence : Prop :=
  (∀ v : Word,
    showDigitsSeq v =
      setSegmentsSeq (packSeg4 (enc Config.seg (v.extractLsb' 0 4) 0) (enc Config.seg (v.extractLsb' 4 4) 1)
        (enc Config.seg (v.extractLsb' 8 4) 2) (enc Config.seg (v.extractLsb' 12 4) 3))) ∧
  (∀ (v : Word) (e0 e1 e2 e3 : Nibble),
    blank [v.extractLsb' 0 4, v.extractLsb' 4 4, v.extractLsb' 8 4, v.extractLsb' 12 4] = [e0, e1, e2, e3] →
    showBlankedSeq v = showDigitsSeq (packDig4 e0 e1 e2 e3))

/-- R151: which positions are blanked. -/
def Obligations.BlankingStopsAtFirstNonzeroDigit : Prop :=
  ∀ (ds : List Nibble),
    (blank ds).length = ds.length ∧
    ∀ i d, ds[i]? = some d →
      (blank ds)[i]? = some (if i + 1 < ds.length ∧ ∀ j ≤ i, ds[j]? = some 0#4 then 10#4 else d)

/-- R152: its three examples, and the separator of every operand whose position 1 is blanked. -/
def Obligations.BlankingCornerCases : Prop :=
  blank [0#4, 1#4, 0#4, 0#4] = [10#4, 1#4, 0#4, 0#4] ∧
  blank [0#4, 0#4, 0#4, 0#4] = [10#4, 10#4, 10#4, 0#4] ∧
  blank [1#4, 2#4, 3#4, 4#4] = [1#4, 2#4, 3#4, 4#4] ∧
  ∀ v : Word, v.extractLsb' 0 4 = 0#4 → v.extractLsb' 4 4 = 0#4 → (showBlankedBytes Config.seg v)[1]? = some 0x80#8

/-! ### The engine's step -/

/-- R110, R209: while `BUSY = 0` or `FAULT = 1` the engine has no step. -/
def Obligations.EngineIdlesUnlessRunning : Prop :=
  ∀ (s : State) (ts : List Turn) (a : Answer), s.turns = .engine a :: ts → ¬ s.Running →
    step s = .next { s with turns := ts }

/-- R110, R13: a micro-operation that succeeds: its event, its line, `SEQ_IDX`, and what it leaves alone. Only the
scan's own position and result may change beside. -/
def Obligations.SuccessfulMicroOperation : Prop :=
  ∀ (s : State) (ts : List Turn) (a : Answer) (j : Job) (m : MicroOp),
    s.turns = .engine a :: ts → s.Running → jobOf s.curOp = some j → nextOp j s = some m → a.fail = false →
    ∃ (k hit : Option Key) (d : Drive) (e : Event),
      step s = .next
        { s with
          turns := ts, seqIdx := s.seqIdx + 1#16, drive := d, trace := s.trace ++ [e], kTmp := k, scanHit := hit } ∧
      (match m with
        | .write l v => d = s.drive.set l v ∧ e = .w l v
        | .read .dio => d = s.drive ∧ e = .r .dio (s.drive.dio && !a.pull)
        | .read (.col c) => d = s.drive ∧ e = .r (.col c) a.col
        | .delay => d = s.drive ∧ e = .d) ∧
      (j ≠ .command .scan → j ≠ .command .poll → k = s.kTmp ∧ hit = s.scanHit)

/-- R207, R242: a failing line operation, with the whole frame of the fault entry. That `K_TMP`, which R207 discards,
keeps its value until the next acceptance or reset is the model's reading of log entry 10. -/
def Obligations.LineFaultEntry : Prop :=
  ∀ (s : State) (ts : List Turn) (a : Answer) (j : Job),
    s.turns = .engine a :: ts → s.Running → jobOf s.curOp = some j → a.fail = true →
    (∀ l v, nextOp j s = some (.write l v) →
      step s = .next
        { s with
          turns := ts
          status :=
            { busy := false, fault := true, ovr := s.status.ovr,
              cause := if s.curOp = 0x00#8 then .ioInit else .ioDrive, faultOp := s.curOp, faultStep := s.seqIdx }
          drive := s.drive.set l a.held
          trace := s.trace ++ [.wFail l] }) ∧
    (∀ l, nextOp j s = some (.read l) →
      step s = .next
        { s with
          turns := ts
          status :=
            { busy := false, fault := true, ovr := s.status.ovr, cause := .ioRead, faultOp := s.curOp,
              faultStep := s.seqIdx }
          trace := s.trace ++ [.rFail l] })

/-- R206: a delay succeeds whatever the environment answers, and so does a completion step. -/
def Obligations.DelayAndCompletionCannotFail : Prop :=
  ∀ (s : State) (ts : List Turn) (a : Answer) (j : Job),
    s.turns = .engine a :: ts → s.Running → jobOf s.curOp = some j →
    (nextOp j s = some .delay ∨ nextOp j s = none) →
    ∃ t, step s = .next t ∧ t.status.fault = false

/-- Where no turn waits, the engine runs on with free answers (the model's input list, log entry 3). -/
def Obligations.EngineRunsOnWithFreeAnswers : Prop :=
  ∀ s : State, s.turns = [] →
    step s = engineTurn
      { fail := Config.ioFail s.drawn, pull := Config.devPull s.drawn, col := Config.colLvl s.drawn,
        held := Config.failedDrive s.drawn }
      { s with drawn := s.drawn + 1 }

/-- R124: the value of an acknowledgment reaches the trace and nothing else. -/
def Obligations.AcknowledgmentIsIgnored : Prop :=
  ∀ (s t : State) (a : Answer) (pull : Bool), engineTurn a s = .next t →
    ∃ u, engineTurn { a with pull := pull } s = .next u ∧ { u with trace := t.trace } = t

/-- R67, R112: what the host does between two engine steps changes nothing the engine does. -/
def Obligations.HostCannotDisturbCommand : Prop :=
  ∀ (s t : State) (a : Answer) (v : Word) (o : Bool) (rs : List Word), engineTurn a s = .next t →
    engineTurn a { s with arg := v, reads := rs, status := { s.status with ovr := o } } =
      .next { t with arg := v, reads := rs, status := { t.status with ovr := o } }

/-- R177, R3: a keypad command moves no display line and a display command moves no row. -/
def Obligations.FamiliesTouchOwnLinesOnly : Prop :=
  ∀ (s t : State) (a : Answer), s.Running → engineTurn a s = .next t →
    (s.curOp = 0x10#8 ∨ s.curOp = 0x11#8 ∨ s.curOp = 0x12#8 →
      t.drive.clk = s.drive.clk ∧ t.drive.dio = s.drive.dio) ∧
    (s.curOp = 0x01#8 ∨ s.curOp = 0x02#8 ∨ s.curOp = 0x03#8 →
      t.drive.row0 = s.drive.row0 ∧ t.drive.row1 = s.drive.row1 ∧ t.drive.row2 = s.drive.row2 ∧
      t.drive.row3 = s.drive.row3)

/-! ### Commands from request to completion -/

/-- R130: SET_SEGMENTS, from a ready block to its completion, when no line operation fails. -/
def Obligations.SetSegmentsCompletes : Prop :=
  ∀ (s : State) (answers : List Answer), s.Ready → 438 ≤ answers.length → NoFailure answers →
    ∃ t, exec .setSegments s = .next t ∧
      engineRun answers t = .next
        { s with
          curOp := 0x01#8, argL := s.arg, seqIdx := 437#16, kTmp := none, scanHit := none,
          drive := { s.drive with clk := true, dio := true },
          trace := s.trace ++ updateTrace
            [s.arg.extractLsb' 0 8, s.arg.extractLsb' 8 8, s.arg.extractLsb' 16 8, s.arg.extractLsb' 24 8] answers }

/-- R145: SHOW_DIGITS, likewise, for every operand R85 makes legal. -/
def Obligations.ShowDigitsCompletes : Prop :=
  ∀ (s : State) (answers : List Answer), s.Ready → operandLegal .showDigits s.arg = true →
    438 ≤ answers.length → NoFailure answers →
    ∃ t, exec .showDigits s = .next t ∧
      engineRun answers t = .next
        { s with
          curOp := 0x02#8, argL := s.arg, seqIdx := 437#16, kTmp := none, scanHit := none,
          drive := { s.drive with clk := true, dio := true },
          trace := s.trace ++ updateTrace
            [Config.seg (s.arg.extractLsb' 0 4), Config.seg (s.arg.extractLsb' 4 4) ||| 0x80#8,
              Config.seg (s.arg.extractLsb' 8 4), Config.seg (s.arg.extractLsb' 12 4)] answers }

/-- R150: SHOW_BLANKED, likewise. -/
def Obligations.ShowBlankedCompletes : Prop :=
  ∀ (s : State) (answers : List Answer) (e0 e1 e2 e3 : Nibble), s.Ready → operandLegal .showBlanked s.arg = true →
    438 ≤ answers.length → NoFailure answers →
    blank [s.arg.extractLsb' 0 4, s.arg.extractLsb' 4 4, s.arg.extractLsb' 8 4, s.arg.extractLsb' 12 4] =
      [e0, e1, e2, e3] →
    ∃ t, exec .showBlanked s = .next t ∧
      engineRun answers t = .next
        { s with
          curOp := 0x03#8, argL := s.arg, seqIdx := 437#16, kTmp := none, scanHit := none,
          drive := { s.drive with clk := true, dio := true },
          trace := s.trace ++ updateTrace
            [Config.seg e0, Config.seg e1 ||| 0x80#8, Config.seg e2, Config.seg e3] answers }

/-- R180: SCAN, from a ready block with all rows high to its completion, when no line operation fails. -/
def Obligations.ScanCompletes : Prop :=
  ∀ (s : State) (answers : List Answer), s.Ready → s.drive.RowsHigh → 21 ≤ answers.length → NoFailure answers →
    ∃ t, exec .scan s = .next t ∧
      engineRun answers t = .next
        { s with
          curOp := 0x10#8, argL := s.arg, seqIdx := BitVec.ofNat 16 (scanLength (firstLow answers)),
          kTmp := firstLow answers, scanHit := none,
          keyRes := (match firstLow answers with
            | none => 0#32
            | some k => BitVec.ofNat 32 (0x10 + k.val)),
          trace := s.trace ++ scanTrace (firstLow answers) }

/-- R185, R186: POLL, likewise. `PREV` may hold any word; for one whose KEY is 12 to 15, which no run reaches, this is
the model's reading of log entry 19. -/
def Obligations.PollCompletes : Prop :=
  ∀ (s : State) (answers : List Answer), s.Ready → s.drive.RowsHigh → 21 ≤ answers.length → NoFailure answers →
    ∃ t, exec .poll s = .next t ∧
      engineRun answers t = .next
        { s with
          curOp := 0x11#8, argL := s.arg, seqIdx := BitVec.ofNat 16 (scanLength (firstLow answers)),
          kTmp := firstLow answers, scanHit := none,
          keyRes := (match firstLow answers with
            | none => 0#32
            | some k => BitVec.ofNat 32 (0x10 + k.val)),
          prev := (match firstLow answers with
            | none => 0#32
            | some k => BitVec.ofNat 32 (0x10 + k.val)),
          keyEvt := (match firstLow answers with
            | none => 0#32
            | some k =>
              if s.prev.getLsbD 4 = true ∧ s.prev.toNat % 16 = k.val then 0#32
              else BitVec.ofNat 32 (0x100 + 16 * ((k.val + 1) % 10) + k.val)),
          trace := s.trace ++ scanTrace (firstLow answers) }

/-- R190: DEB_CLEAR, in one engine step that nothing can make fail. -/
def Obligations.DebClearCompletes : Prop :=
  ∀ (s : State) (a : Answer), s.Ready →
    ∃ t, exec .debClear s = .next t ∧ t.status.busy = true ∧
      engineRun [a] t = .next
        { s with curOp := 0x12#8, argL := s.arg, seqIdx := 0#16, kTmp := none, scanHit := none, prev := 0#32 }

/-- R186, R188: two polls one after the other. The second accepts its key exactly when it sees one that the first
did not see. -/
def Obligations.ConsecutivePollsAcceptEdges : Prop :=
  ∀ (s : State) (first second : List Answer), s.Ready → s.drive.RowsHigh →
    21 ≤ first.length → NoFailure first → 21 ≤ second.length → NoFailure second →
    ∃ t u t' u', exec .poll s = .next t ∧ engineRun first t = .next u ∧
      exec .poll u = .next t' ∧ engineRun second t' = .next u' ∧
      (∀ k, firstLow second = some k → firstLow first ≠ some k → u'.keyEvt = keyEvent k) ∧
      (firstLow second = none ∨ firstLow second = firstLow first → u'.keyEvt = 0#32)

/-- R174: under the reference matrix with a fixed set of pressed keys, a scan returns the least of them. -/
def Obligations.MatrixScanReturnsLeastKey : Prop :=
  ∀ (s : State) (pressed : List Key) (ack : Bool), s.Ready → s.drive.RowsHigh →
    ∃ t u, exec .scan s = .next t ∧ engineRunWith (simulator pressed ack) 21 t = .next u ∧ u.status = s.status ∧
      (pressed = [] → u.keyRes = 0#32) ∧
      (∀ k ∈ pressed, (∀ k' ∈ pressed, k ≤ k') → u.keyRes = BitVec.ofNat 32 (0x10 + k.val))

/-- R164: after a display command that completes with every acknowledgment read as 0, the reference receiver shows
the bytes sent and the display is on. -/
def Obligations.ReceiverShowsBytesSent : Prop :=
  ∀ (s : State) (i : Instr) (answers : List Answer) (r : Receiver) (b0 b1 b2 b3 : Byte),
    s.Ready → operandLegal i s.arg = true → 438 ≤ answers.length → NoFailure answers →
    (∀ a ∈ answers, a.pull = true) → r.AtRest →
    (i, [b0, b1, b2, b3]) ∈
      [(.setSegments, setSegmentsBytes s.arg), (.showDigits, showDigitsBytes Config.seg s.arg),
        (.showBlanked, showBlankedBytes Config.seg s.arg)] →
    ∃ t u events r', exec i s = .next t ∧ engineRun answers t = .next u ∧ u.trace = s.trace ++ events ∧
      r.watch events = some r' ∧ r'.AtRest ∧ r'.shown = some { bytes := [b0, b1, b2, b3], brightness := 7 }

/-- R171, R26, R187: the key index and what the result registers say of each key. -/
def Obligations.KeyEncodings : Prop :=
  (∀ (r : Fin 4) (c : Fin 3), (keyOf r c).val = r.val * 3 + c.val) ∧
  encKey none = 0#32 ∧ decKey (encKey none) = none ∧
  (∀ k : Key, encKey (some k) = BitVec.ofNat 32 (0x10 + k.val) ∧ decKey (encKey (some k)) = some (keyBits k) ∧
    keyEvent k = BitVec.ofNat 32 (0x100 + 16 * ((k.val + 1) % 10) + k.val)) ∧
  (List.finRange 12).map keyDigit =
    [1#4, 2#4, 3#4, 4#4, 5#4, 6#4, 7#4, 8#4, 9#4, 0#4, 1#4, 2#4]

/-! ### Reset -/

/-- R240, R241: the reset step, from any state and in the middle of anything. -/
def Obligations.ResetStepFromAnyState : Prop :=
  ∀ (s : State) (ts : List Turn), s.turns = .reset :: ts →
    step s = .next
      { arg := 0#32
        status := { busy := true, fault := false, ovr := false, cause := .none, faultOp := 0#8, faultStep := 0#16 }
        keyRes := 0#32, keyEvt := 0#32, prev := 0#32, drive := s.drive, curOp := 0#8, argL := 0#32, seqIdx := 0#16,
        kTmp := none, trace := s.trace ++ [.reset], scanHit := none, reads := s.reads, turns := ts, drawn := s.drawn }

/-- R43, R241: a reset whose line initialization succeeds leaves the state of R43, from whatever state. -/
def Obligations.SuccessfulResetReachesResetState : Prop :=
  ∀ (s : State) (answers : List Answer), 7 ≤ answers.length → NoFailure answers →
    engineRun answers (resetStep s) = .next
      { arg := 0x00000000#32
        status := { busy := false, fault := false, ovr := false, cause := .none, faultOp := 0#8, faultStep := 0#16 }
        keyRes := 0x00000000#32, keyEvt := 0x00000000#32, prev := 0x00000000#32
        drive := { clk := true, dio := true, row0 := true, row1 := true, row2 := true, row3 := true }
        curOp := 0x00#8, argL := 0x00000000#32, seqIdx := 6#16, kTmp := none
        trace := s.trace ++
          [.reset, .w .clk true, .w .dio true, .w .row0 true, .w .row1 true, .w .row2 true, .w .row3 true]
        scanHit := none, reads := s.reads, turns := s.turns, drawn := s.drawn }

/-- R241, U7: power-on reaches the reset state whatever the lines were. -/
def Obligations.PowerOnReachesResetState : Prop :=
  ∀ (lines : Drive) (answers : List Answer), 7 ≤ answers.length → NoFailure answers →
    engineRun answers (powerOn lines) = .next State.reset

/-- R242: a write of the line initialization that fails at index `n`. -/
def Obligations.FailedLineInitIsAResetFault : Prop :=
  ∀ (s : State) (good rest : List Answer) (bad : Answer) (l : OutLine),
    NoFailure good → bad.fail = true → lineInitSeq[good.length]? = some (.write l true) →
    ∃ t, engineRun (good ++ bad :: rest) (resetStep s) = .next t ∧
      t.status =
        { busy := false, fault := true, ovr := false, cause := .ioInit, faultOp := 0x00#8,
          faultStep := BitVec.ofNat 16 good.length } ∧
      t.drive = (s.drive.after (lineInitSeq.take good.length)).set l bad.held

/-- R43, R25, R29: what the host reads right after reset. -/
def Obligations.ResetRegisterValues : Prop :=
  readReg .arg State.reset = 0#32 ∧ readReg .status State.reset = 0#32 ∧ readReg .keyRes State.reset = 0#32 ∧
  readReg .keyEvt State.reset = 0#32 ∧ readReg .prev State.reset = 0#32 ∧ readReg .lines State.reset = 0x000000F3#32 ∧
  State.reset.curOp = 0x00#8 ∧ State.reset.argL = 0#32 ∧ State.reset.seqIdx = 6#16 ∧ State.reset.kTmp = none

/-! ### Rules of the whole machine -/

/-- R209, R210, R41: a faulted block stays as it is until reset; the host may only write `ARG` and read. -/
def Obligations.FaultStaysUntilReset : Prop :=
  ∀ (s t : State), s.status.fault = true → step s = .next t →
    (∃ ts, s.turns = .reset :: ts) ∨
    ∃ (v : Word) (rs : List Word) (ts : List Turn) (n : Nat),
      t = { s with arg := v, reads := rs, turns := ts, drawn := n }

/-- R25: the status register stays legal in every step, from every state in which it is. -/
def Obligations.StatusStaysLegal : Prop :=
  ∀ (s t : State), s.status.Legal → step s = .next t → t.status.Legal

/-- R68, R111, R251: the result registers change only at a completion step of the engine, or at reset. -/
def Obligations.ResultsChangeOnlyAtCompletion : Prop :=
  ∀ (s t : State), step s = .next t → (∀ ts, s.turns ≠ .reset :: ts) →
    (t.keyRes ≠ s.keyRes ∨ t.keyEvt ≠ s.keyEvt ∨ t.prev ≠ s.prev) →
    s.Running ∧ t.Ready ∧ t.trace = s.trace ∧ t.drive = s.drive

/-- R40: a step appends at most one event to the trace, and a host access none. -/
def Obligations.TraceGrowsByAtMostOneEvent : Prop :=
  ∀ (s t : State), step s = .next t →
    (t.trace = s.trace ∨ ∃ e, t.trace = s.trace ++ [e]) ∧
    (∀ a ts, s.turns = .host a :: ts → t.trace = s.trace ∧ t.drive = s.drive)

/-- R33, R34, R176: the invariant at reset. -/
def Obligations.ResetMeetsInvariant : Prop := State.reset.Inv

/-- The invariant is kept by every step of every agent. -/
def Obligations.StepKeepsInvariant : Prop :=
  ∀ (s t : State), s.Inv → step s = .next t → t.Inv

/-- A state of the invariant never stops but at a host access that is refused. -/
def Obligations.InvariantStatesNeverFault : Prop :=
  ∀ (s : State) (f : Sys2Proof.Machine.Fault), s.Inv → step s ≠ .fault f

/-- R113: whatever the environment answers, a running engine comes to rest within 438 of its turns. -/
def Obligations.EveryCommandEnds : Prop :=
  ∀ (s : State) (answers : List Answer), s.Inv → 438 ≤ answers.length →
    ∃ t, engineRun answers s = .next t ∧ t.status.busy = false
end

