-- ==== Sys2Proof/Laws/State.lean ====
section
/-! SUPPORT. What each named update of State leaves in each field, so that no later proof unfolds an update. -/

namespace Sys2Proof.Machine

/-! ### `State.emit` -/

@[simp] theorem emit_arg (e : Event) (s : State) : (s.emit e).arg = s.arg := rfl
@[simp] theorem emit_status (e : Event) (s : State) : (s.emit e).status = s.status := rfl
@[simp] theorem emit_keyRes (e : Event) (s : State) : (s.emit e).keyRes = s.keyRes := rfl
@[simp] theorem emit_keyEvt (e : Event) (s : State) : (s.emit e).keyEvt = s.keyEvt := rfl
@[simp] theorem emit_prev (e : Event) (s : State) : (s.emit e).prev = s.prev := rfl
@[simp] theorem emit_drive (e : Event) (s : State) : (s.emit e).drive = s.drive := rfl
@[simp] theorem emit_curOp (e : Event) (s : State) : (s.emit e).curOp = s.curOp := rfl
@[simp] theorem emit_argL (e : Event) (s : State) : (s.emit e).argL = s.argL := rfl
@[simp] theorem emit_seqIdx (e : Event) (s : State) : (s.emit e).seqIdx = s.seqIdx := rfl
@[simp] theorem emit_kTmp (e : Event) (s : State) : (s.emit e).kTmp = s.kTmp := rfl
@[simp] theorem emit_trace (e : Event) (s : State) : (s.emit e).trace = s.trace ++ [e] := rfl
@[simp] theorem emit_scanHit (e : Event) (s : State) : (s.emit e).scanHit = s.scanHit := rfl
@[simp] theorem emit_reads (e : Event) (s : State) : (s.emit e).reads = s.reads := rfl
@[simp] theorem emit_turns (e : Event) (s : State) : (s.emit e).turns = s.turns := rfl
@[simp] theorem emit_drawn (e : Event) (s : State) : (s.emit e).drawn = s.drawn := rfl

/-! ### `State.setDrive` -/

@[simp] theorem setDrive_arg (l : OutLine) (v : Bool) (s : State) : (s.setDrive l v).arg = s.arg := rfl
@[simp] theorem setDrive_status (l : OutLine) (v : Bool) (s : State) : (s.setDrive l v).status = s.status := rfl
@[simp] theorem setDrive_keyRes (l : OutLine) (v : Bool) (s : State) : (s.setDrive l v).keyRes = s.keyRes := rfl
@[simp] theorem setDrive_keyEvt (l : OutLine) (v : Bool) (s : State) : (s.setDrive l v).keyEvt = s.keyEvt := rfl
@[simp] theorem setDrive_prev (l : OutLine) (v : Bool) (s : State) : (s.setDrive l v).prev = s.prev := rfl
@[simp] theorem setDrive_drive (l : OutLine) (v : Bool) (s : State) : (s.setDrive l v).drive = s.drive.set l v := rfl
@[simp] theorem setDrive_curOp (l : OutLine) (v : Bool) (s : State) : (s.setDrive l v).curOp = s.curOp := rfl
@[simp] theorem setDrive_argL (l : OutLine) (v : Bool) (s : State) : (s.setDrive l v).argL = s.argL := rfl
@[simp] theorem setDrive_seqIdx (l : OutLine) (v : Bool) (s : State) : (s.setDrive l v).seqIdx = s.seqIdx := rfl
@[simp] theorem setDrive_kTmp (l : OutLine) (v : Bool) (s : State) : (s.setDrive l v).kTmp = s.kTmp := rfl
@[simp] theorem setDrive_trace (l : OutLine) (v : Bool) (s : State) : (s.setDrive l v).trace = s.trace := rfl
@[simp] theorem setDrive_scanHit (l : OutLine) (v : Bool) (s : State) : (s.setDrive l v).scanHit = s.scanHit := rfl
@[simp] theorem setDrive_reads (l : OutLine) (v : Bool) (s : State) : (s.setDrive l v).reads = s.reads := rfl
@[simp] theorem setDrive_turns (l : OutLine) (v : Bool) (s : State) : (s.setDrive l v).turns = s.turns := rfl
@[simp] theorem setDrive_drawn (l : OutLine) (v : Bool) (s : State) : (s.setDrive l v).drawn = s.drawn := rfl

/-! ### `State.advance` -/

@[simp] theorem advance_arg (s : State) : s.advance.arg = s.arg := rfl
@[simp] theorem advance_status (s : State) : s.advance.status = s.status := rfl
@[simp] theorem advance_keyRes (s : State) : s.advance.keyRes = s.keyRes := rfl
@[simp] theorem advance_keyEvt (s : State) : s.advance.keyEvt = s.keyEvt := rfl
@[simp] theorem advance_prev (s : State) : s.advance.prev = s.prev := rfl
@[simp] theorem advance_drive (s : State) : s.advance.drive = s.drive := rfl
@[simp] theorem advance_curOp (s : State) : s.advance.curOp = s.curOp := rfl
@[simp] theorem advance_argL (s : State) : s.advance.argL = s.argL := rfl
@[simp] theorem advance_seqIdx (s : State) : s.advance.seqIdx = s.seqIdx + 1#16 := rfl
@[simp] theorem advance_kTmp (s : State) : s.advance.kTmp = s.kTmp := rfl
@[simp] theorem advance_trace (s : State) : s.advance.trace = s.trace := rfl
@[simp] theorem advance_scanHit (s : State) : s.advance.scanHit = s.scanHit := rfl
@[simp] theorem advance_reads (s : State) : s.advance.reads = s.reads := rfl
@[simp] theorem advance_turns (s : State) : s.advance.turns = s.turns := rfl
@[simp] theorem advance_drawn (s : State) : s.advance.drawn = s.drawn := rfl

/-! ### `State.withTurns` -/

@[simp] theorem withTurns_arg (ts : List Turn) (s : State) : (s.withTurns ts).arg = s.arg := rfl
@[simp] theorem withTurns_status (ts : List Turn) (s : State) : (s.withTurns ts).status = s.status := rfl
@[simp] theorem withTurns_keyRes (ts : List Turn) (s : State) : (s.withTurns ts).keyRes = s.keyRes := rfl
@[simp] theorem withTurns_keyEvt (ts : List Turn) (s : State) : (s.withTurns ts).keyEvt = s.keyEvt := rfl
@[simp] theorem withTurns_prev (ts : List Turn) (s : State) : (s.withTurns ts).prev = s.prev := rfl
@[simp] theorem withTurns_drive (ts : List Turn) (s : State) : (s.withTurns ts).drive = s.drive := rfl
@[simp] theorem withTurns_curOp (ts : List Turn) (s : State) : (s.withTurns ts).curOp = s.curOp := rfl
@[simp] theorem withTurns_argL (ts : List Turn) (s : State) : (s.withTurns ts).argL = s.argL := rfl
@[simp] theorem withTurns_seqIdx (ts : List Turn) (s : State) : (s.withTurns ts).seqIdx = s.seqIdx := rfl
@[simp] theorem withTurns_kTmp (ts : List Turn) (s : State) : (s.withTurns ts).kTmp = s.kTmp := rfl
@[simp] theorem withTurns_trace (ts : List Turn) (s : State) : (s.withTurns ts).trace = s.trace := rfl
@[simp] theorem withTurns_scanHit (ts : List Turn) (s : State) : (s.withTurns ts).scanHit = s.scanHit := rfl
@[simp] theorem withTurns_reads (ts : List Turn) (s : State) : (s.withTurns ts).reads = s.reads := rfl
@[simp] theorem withTurns_turns (ts : List Turn) (s : State) : (s.withTurns ts).turns = ts := rfl
@[simp] theorem withTurns_drawn (ts : List Turn) (s : State) : (s.withTurns ts).drawn = s.drawn := rfl

/-! ### `State.raiseFault` -/

@[simp] theorem raiseFault_arg (c : Cause) (op : Byte) (n : BitVec 16) (s : State) : (s.raiseFault c op n).arg = s.arg := rfl
@[simp] theorem raiseFault_status (c : Cause) (op : Byte) (n : BitVec 16) (s : State) : (s.raiseFault c op n).status = ⟨false, true, s.status.ovr, c, op, n⟩ := rfl
@[simp] theorem raiseFault_keyRes (c : Cause) (op : Byte) (n : BitVec 16) (s : State) : (s.raiseFault c op n).keyRes = s.keyRes := rfl
@[simp] theorem raiseFault_keyEvt (c : Cause) (op : Byte) (n : BitVec 16) (s : State) : (s.raiseFault c op n).keyEvt = s.keyEvt := rfl
@[simp] theorem raiseFault_prev (c : Cause) (op : Byte) (n : BitVec 16) (s : State) : (s.raiseFault c op n).prev = s.prev := rfl
@[simp] theorem raiseFault_drive (c : Cause) (op : Byte) (n : BitVec 16) (s : State) : (s.raiseFault c op n).drive = s.drive := rfl
@[simp] theorem raiseFault_curOp (c : Cause) (op : Byte) (n : BitVec 16) (s : State) : (s.raiseFault c op n).curOp = s.curOp := rfl
@[simp] theorem raiseFault_argL (c : Cause) (op : Byte) (n : BitVec 16) (s : State) : (s.raiseFault c op n).argL = s.argL := rfl
@[simp] theorem raiseFault_seqIdx (c : Cause) (op : Byte) (n : BitVec 16) (s : State) : (s.raiseFault c op n).seqIdx = s.seqIdx := rfl
@[simp] theorem raiseFault_kTmp (c : Cause) (op : Byte) (n : BitVec 16) (s : State) : (s.raiseFault c op n).kTmp = s.kTmp := rfl
@[simp] theorem raiseFault_trace (c : Cause) (op : Byte) (n : BitVec 16) (s : State) : (s.raiseFault c op n).trace = s.trace := rfl
@[simp] theorem raiseFault_scanHit (c : Cause) (op : Byte) (n : BitVec 16) (s : State) : (s.raiseFault c op n).scanHit = s.scanHit := rfl
@[simp] theorem raiseFault_reads (c : Cause) (op : Byte) (n : BitVec 16) (s : State) : (s.raiseFault c op n).reads = s.reads := rfl
@[simp] theorem raiseFault_turns (c : Cause) (op : Byte) (n : BitVec 16) (s : State) : (s.raiseFault c op n).turns = s.turns := rfl
@[simp] theorem raiseFault_drawn (c : Cause) (op : Byte) (n : BitVec 16) (s : State) : (s.raiseFault c op n).drawn = s.drawn := rfl

/-! ### `accept` -/

@[simp] theorem accept_arg (op : Byte) (s : State) : (accept op s).arg = s.arg := rfl
@[simp] theorem accept_status (op : Byte) (s : State) : (accept op s).status = { s.status with busy := true } := rfl
@[simp] theorem accept_keyRes (op : Byte) (s : State) : (accept op s).keyRes = s.keyRes := rfl
@[simp] theorem accept_keyEvt (op : Byte) (s : State) : (accept op s).keyEvt = s.keyEvt := rfl
@[simp] theorem accept_prev (op : Byte) (s : State) : (accept op s).prev = s.prev := rfl
@[simp] theorem accept_drive (op : Byte) (s : State) : (accept op s).drive = s.drive := rfl
@[simp] theorem accept_curOp (op : Byte) (s : State) : (accept op s).curOp = op := rfl
@[simp] theorem accept_argL (op : Byte) (s : State) : (accept op s).argL = s.arg := rfl
@[simp] theorem accept_seqIdx (op : Byte) (s : State) : (accept op s).seqIdx = 0#16 := rfl
@[simp] theorem accept_kTmp (op : Byte) (s : State) : (accept op s).kTmp = none := rfl
@[simp] theorem accept_trace (op : Byte) (s : State) : (accept op s).trace = s.trace := rfl
@[simp] theorem accept_scanHit (op : Byte) (s : State) : (accept op s).scanHit = none := rfl
@[simp] theorem accept_reads (op : Byte) (s : State) : (accept op s).reads = s.reads := rfl
@[simp] theorem accept_turns (op : Byte) (s : State) : (accept op s).turns = s.turns := rfl
@[simp] theorem accept_drawn (op : Byte) (s : State) : (accept op s).drawn = s.drawn := rfl

/-! ### `overrun` -/

@[simp] theorem overrun_arg (s : State) : (overrun s).arg = s.arg := rfl
@[simp] theorem overrun_status (s : State) : (overrun s).status = { s.status with ovr := true } := rfl
@[simp] theorem overrun_keyRes (s : State) : (overrun s).keyRes = s.keyRes := rfl
@[simp] theorem overrun_keyEvt (s : State) : (overrun s).keyEvt = s.keyEvt := rfl
@[simp] theorem overrun_prev (s : State) : (overrun s).prev = s.prev := rfl
@[simp] theorem overrun_drive (s : State) : (overrun s).drive = s.drive := rfl
@[simp] theorem overrun_curOp (s : State) : (overrun s).curOp = s.curOp := rfl
@[simp] theorem overrun_argL (s : State) : (overrun s).argL = s.argL := rfl
@[simp] theorem overrun_seqIdx (s : State) : (overrun s).seqIdx = s.seqIdx := rfl
@[simp] theorem overrun_kTmp (s : State) : (overrun s).kTmp = s.kTmp := rfl
@[simp] theorem overrun_trace (s : State) : (overrun s).trace = s.trace := rfl
@[simp] theorem overrun_scanHit (s : State) : (overrun s).scanHit = s.scanHit := rfl
@[simp] theorem overrun_reads (s : State) : (overrun s).reads = s.reads := rfl
@[simp] theorem overrun_turns (s : State) : (overrun s).turns = s.turns := rfl
@[simp] theorem overrun_drawn (s : State) : (overrun s).drawn = s.drawn := rfl

/-! ### `finish` -/

@[simp] theorem finish_arg (s : State) : (finish s).arg = s.arg := rfl
@[simp] theorem finish_status (s : State) : (finish s).status = { s.status with busy := false } := rfl
@[simp] theorem finish_keyRes (s : State) : (finish s).keyRes = s.keyRes := rfl
@[simp] theorem finish_keyEvt (s : State) : (finish s).keyEvt = s.keyEvt := rfl
@[simp] theorem finish_prev (s : State) : (finish s).prev = s.prev := rfl
@[simp] theorem finish_drive (s : State) : (finish s).drive = s.drive := rfl
@[simp] theorem finish_curOp (s : State) : (finish s).curOp = s.curOp := rfl
@[simp] theorem finish_argL (s : State) : (finish s).argL = s.argL := rfl
@[simp] theorem finish_seqIdx (s : State) : (finish s).seqIdx = s.seqIdx := rfl
@[simp] theorem finish_kTmp (s : State) : (finish s).kTmp = s.kTmp := rfl
@[simp] theorem finish_trace (s : State) : (finish s).trace = s.trace := rfl
@[simp] theorem finish_scanHit (s : State) : (finish s).scanHit = s.scanHit := rfl
@[simp] theorem finish_reads (s : State) : (finish s).reads = s.reads := rfl
@[simp] theorem finish_turns (s : State) : (finish s).turns = s.turns := rfl
@[simp] theorem finish_drawn (s : State) : (finish s).drawn = s.drawn := rfl

/-! ### `resetStep` -/

@[simp] theorem resetStep_arg (s : State) : (resetStep s).arg = 0#32 := rfl
@[simp] theorem resetStep_status (s : State) : (resetStep s).status = { Status.clear with busy := true } := rfl
@[simp] theorem resetStep_keyRes (s : State) : (resetStep s).keyRes = 0#32 := rfl
@[simp] theorem resetStep_keyEvt (s : State) : (resetStep s).keyEvt = 0#32 := rfl
@[simp] theorem resetStep_prev (s : State) : (resetStep s).prev = 0#32 := rfl
@[simp] theorem resetStep_drive (s : State) : (resetStep s).drive = s.drive := rfl
@[simp] theorem resetStep_curOp (s : State) : (resetStep s).curOp = 0#8 := rfl
@[simp] theorem resetStep_argL (s : State) : (resetStep s).argL = 0#32 := rfl
@[simp] theorem resetStep_seqIdx (s : State) : (resetStep s).seqIdx = 0#16 := rfl
@[simp] theorem resetStep_kTmp (s : State) : (resetStep s).kTmp = none := rfl
@[simp] theorem resetStep_trace (s : State) : (resetStep s).trace = s.trace ++ [.reset] := rfl
@[simp] theorem resetStep_scanHit (s : State) : (resetStep s).scanHit = none := rfl
@[simp] theorem resetStep_reads (s : State) : (resetStep s).reads = s.reads := rfl
@[simp] theorem resetStep_turns (s : State) : (resetStep s).turns = s.turns := rfl
@[simp] theorem resetStep_drawn (s : State) : (resetStep s).drawn = s.drawn := rfl

/-! ### `hostRead` -/

@[simp] theorem hostRead_arg (r : Reg) (s : State) : (hostRead r s).arg = s.arg := rfl
@[simp] theorem hostRead_status (r : Reg) (s : State) : (hostRead r s).status = s.status := rfl
@[simp] theorem hostRead_keyRes (r : Reg) (s : State) : (hostRead r s).keyRes = s.keyRes := rfl
@[simp] theorem hostRead_keyEvt (r : Reg) (s : State) : (hostRead r s).keyEvt = s.keyEvt := rfl
@[simp] theorem hostRead_prev (r : Reg) (s : State) : (hostRead r s).prev = s.prev := rfl
@[simp] theorem hostRead_drive (r : Reg) (s : State) : (hostRead r s).drive = s.drive := rfl
@[simp] theorem hostRead_curOp (r : Reg) (s : State) : (hostRead r s).curOp = s.curOp := rfl
@[simp] theorem hostRead_argL (r : Reg) (s : State) : (hostRead r s).argL = s.argL := rfl
@[simp] theorem hostRead_seqIdx (r : Reg) (s : State) : (hostRead r s).seqIdx = s.seqIdx := rfl
@[simp] theorem hostRead_kTmp (r : Reg) (s : State) : (hostRead r s).kTmp = s.kTmp := rfl
@[simp] theorem hostRead_trace (r : Reg) (s : State) : (hostRead r s).trace = s.trace := rfl
@[simp] theorem hostRead_scanHit (r : Reg) (s : State) : (hostRead r s).scanHit = s.scanHit := rfl
@[simp] theorem hostRead_reads (r : Reg) (s : State) : (hostRead r s).reads = s.reads ++ [readReg r s] := rfl
@[simp] theorem hostRead_turns (r : Reg) (s : State) : (hostRead r s).turns = s.turns := rfl
@[simp] theorem hostRead_drawn (r : Reg) (s : State) : (hostRead r s).drawn = s.drawn := rfl

/-! ### `scanCommit` -/

@[simp] theorem scanCommit_arg (s : State) : (scanCommit s).arg = s.arg := rfl
@[simp] theorem scanCommit_status (s : State) : (scanCommit s).status = s.status := rfl
@[simp] theorem scanCommit_keyRes (s : State) : (scanCommit s).keyRes = encKey s.kTmp := rfl
@[simp] theorem scanCommit_keyEvt (s : State) : (scanCommit s).keyEvt = s.keyEvt := rfl
@[simp] theorem scanCommit_prev (s : State) : (scanCommit s).prev = s.prev := rfl
@[simp] theorem scanCommit_drive (s : State) : (scanCommit s).drive = s.drive := rfl
@[simp] theorem scanCommit_curOp (s : State) : (scanCommit s).curOp = s.curOp := rfl
@[simp] theorem scanCommit_argL (s : State) : (scanCommit s).argL = s.argL := rfl
@[simp] theorem scanCommit_seqIdx (s : State) : (scanCommit s).seqIdx = s.seqIdx := rfl
@[simp] theorem scanCommit_kTmp (s : State) : (scanCommit s).kTmp = s.kTmp := rfl
@[simp] theorem scanCommit_trace (s : State) : (scanCommit s).trace = s.trace := rfl
@[simp] theorem scanCommit_scanHit (s : State) : (scanCommit s).scanHit = s.scanHit := rfl
@[simp] theorem scanCommit_reads (s : State) : (scanCommit s).reads = s.reads := rfl
@[simp] theorem scanCommit_turns (s : State) : (scanCommit s).turns = s.turns := rfl
@[simp] theorem scanCommit_drawn (s : State) : (scanCommit s).drawn = s.drawn := rfl

/-! ### `pollCommit` -/

@[simp] theorem pollCommit_arg (s : State) : (pollCommit s).arg = s.arg := rfl
@[simp] theorem pollCommit_status (s : State) : (pollCommit s).status = s.status := rfl
@[simp] theorem pollCommit_keyRes (s : State) : (pollCommit s).keyRes = encKey s.kTmp := rfl
@[simp] theorem pollCommit_keyEvt (s : State) : (pollCommit s).keyEvt = pollEvent s.kTmp s.prev := rfl
@[simp] theorem pollCommit_prev (s : State) : (pollCommit s).prev = encKey s.kTmp := rfl
@[simp] theorem pollCommit_drive (s : State) : (pollCommit s).drive = s.drive := rfl
@[simp] theorem pollCommit_curOp (s : State) : (pollCommit s).curOp = s.curOp := rfl
@[simp] theorem pollCommit_argL (s : State) : (pollCommit s).argL = s.argL := rfl
@[simp] theorem pollCommit_seqIdx (s : State) : (pollCommit s).seqIdx = s.seqIdx := rfl
@[simp] theorem pollCommit_kTmp (s : State) : (pollCommit s).kTmp = s.kTmp := rfl
@[simp] theorem pollCommit_trace (s : State) : (pollCommit s).trace = s.trace := rfl
@[simp] theorem pollCommit_scanHit (s : State) : (pollCommit s).scanHit = s.scanHit := rfl
@[simp] theorem pollCommit_reads (s : State) : (pollCommit s).reads = s.reads := rfl
@[simp] theorem pollCommit_turns (s : State) : (pollCommit s).turns = s.turns := rfl
@[simp] theorem pollCommit_drawn (s : State) : (pollCommit s).drawn = s.drawn := rfl

/-! ### `debClearCommit` -/

@[simp] theorem debClearCommit_arg (s : State) : (debClearCommit s).arg = s.arg := rfl
@[simp] theorem debClearCommit_status (s : State) : (debClearCommit s).status = s.status := rfl
@[simp] theorem debClearCommit_keyRes (s : State) : (debClearCommit s).keyRes = s.keyRes := rfl
@[simp] theorem debClearCommit_keyEvt (s : State) : (debClearCommit s).keyEvt = s.keyEvt := rfl
@[simp] theorem debClearCommit_prev (s : State) : (debClearCommit s).prev = encKey none := rfl
@[simp] theorem debClearCommit_drive (s : State) : (debClearCommit s).drive = s.drive := rfl
@[simp] theorem debClearCommit_curOp (s : State) : (debClearCommit s).curOp = s.curOp := rfl
@[simp] theorem debClearCommit_argL (s : State) : (debClearCommit s).argL = s.argL := rfl
@[simp] theorem debClearCommit_seqIdx (s : State) : (debClearCommit s).seqIdx = s.seqIdx := rfl
@[simp] theorem debClearCommit_kTmp (s : State) : (debClearCommit s).kTmp = s.kTmp := rfl
@[simp] theorem debClearCommit_trace (s : State) : (debClearCommit s).trace = s.trace := rfl
@[simp] theorem debClearCommit_scanHit (s : State) : (debClearCommit s).scanHit = s.scanHit := rfl
@[simp] theorem debClearCommit_reads (s : State) : (debClearCommit s).reads = s.reads := rfl
@[simp] theorem debClearCommit_turns (s : State) : (debClearCommit s).turns = s.turns := rfl
@[simp] theorem debClearCommit_drawn (s : State) : (debClearCommit s).drawn = s.drawn := rfl

end Sys2Proof.Machine
end

