-- ==== Sys2Proof/Laws/Lines.lean ====
section
/-! SUPPORT. The laws of the drive states: get after set, and what a sequence of micro-operations leaves. -/

namespace Sys2Proof.Machine

theorem get_set_same (d : Drive) (l : OutLine) (v : Bool) : (d.set l v).get l = v := by
  cases l <;> rfl

theorem get_set_other (d : Drive) (l k : OutLine) (v : Bool) (h : k ≠ l) : (d.set l v).get k = d.get k := by
  cases l <;> cases k <;> first | rfl | exact absurd rfl h

theorem drive_ext {d e : Drive} (h : ∀ l, d.get l = e.get l) : d = e := by
  have h0 := h .clk; have h1 := h .dio; have h2 := h .row0
  have h3 := h .row1; have h4 := h .row2; have h5 := h .row3
  cases d; cases e
  simp_all [Drive.get]

@[simp] theorem after_nil (d : Drive) : d.after [] = d := rfl

@[simp] theorem after_write (d : Drive) (l : OutLine) (v : Bool) (ops : List MicroOp) :
    d.after (.write l v :: ops) = (d.set l v).after ops := rfl

@[simp] theorem after_read (d : Drive) (l : InLine) (ops : List MicroOp) :
    d.after (.read l :: ops) = d.after ops := rfl

@[simp] theorem after_delay (d : Drive) (ops : List MicroOp) : d.after (.delay :: ops) = d.after ops := rfl

theorem after_append (d : Drive) (p q : List MicroOp) : d.after (p ++ q) = (d.after p).after q := by
  simp [Drive.after]

/-- One more micro-operation of a sequence. -/
theorem after_take_succ (d : Drive) (ops : List MicroOp) (n : Nat) (m : MicroOp) (h : ops[n]? = some m) :
    d.after (ops.take (n + 1)) = (d.after (ops.take n)).after [m] := by
  rw [List.take_add_one, h, after_append]; rfl

end Sys2Proof.Machine
end

