-- ==== Sys2Proof/Laws/Ops.lean ====
section
/-! SUPPORT. One law per shared operation, saying once everything it can do, and the inversion of `step`. -/

namespace Sys2Proof.Machine

/-! ### Dispatch -/

theorem exec_eq_request (i : Instr) (s : State) :
    exec i s = .next (request i.opcode (operandLegal i s.arg) s) := by
  cases i <;> rfl

theorem decodeOpcode_opcode (i : Instr) : decodeOpcode i.opcode = some i := by
  cases i <;> rfl

theorem request_faulted {s : State} (op : Byte) (legal : Bool) (h : s.status.fault = true) :
    request op legal s = s := by
  simp [request, h]

theorem request_running {s : State} (op : Byte) (legal : Bool) (h : s.Running) :
    request op legal s = overrun s := by
  simp [request, h.1, h.2]

theorem request_legal {s : State} (op : Byte) (h : s.Ready) : request op true s = accept op s := by
  simp [request, h.1, h.2]

theorem request_illegal {s : State} (op : Byte) (h : s.Ready) :
    request op false s = dispatchFault .illegalOperand op s := by
  simp [request, h.1, h.2]

/-- Everything a request of a listed command can do. -/
theorem request_cases (op : Byte) (legal : Bool) (s : State) :
    (s.status.fault = true ∧ request op legal s = s) ∨
    (s.Running ∧ request op legal s = overrun s) ∨
    (s.Ready ∧ legal = true ∧ request op legal s = accept op s) ∨
    (s.Ready ∧ legal = false ∧ request op legal s = dispatchFault .illegalOperand op s) := by
  cases hf : s.status.fault
  · cases hb : s.status.busy
    · cases legal
      · exact .inr (.inr (.inr ⟨⟨hb, hf⟩, rfl, request_illegal op ⟨hb, hf⟩⟩))
      · exact .inr (.inr (.inl ⟨⟨hb, hf⟩, rfl, request_legal op ⟨hb, hf⟩⟩))
    · exact .inr (.inl ⟨⟨hb, hf⟩, request_running op legal ⟨hb, hf⟩⟩)
  · exact .inl ⟨rfl, request_faulted op legal hf⟩

/-- Everything a request of a word that is no command can do. -/
theorem illegalRequest_cases (w : Word) (s : State) :
    (s.status.fault = true ∧ illegalRequest w s = s) ∨
    (s.Running ∧ illegalRequest w s = overrun s) ∨
    (s.Ready ∧ illegalRequest w s = dispatchFault .illegalCommand (opcodeField w) s) := by
  cases hf : s.status.fault
  · cases hb : s.status.busy
    · exact .inr (.inr ⟨⟨hb, hf⟩, by simp [illegalRequest, hf, hb]⟩)
    · exact .inr (.inl ⟨⟨hb, hf⟩, by simp [illegalRequest, hf, hb]⟩)
  · exact .inl ⟨rfl, by simp [illegalRequest, hf]⟩

/-- Everything a `CMD` write can do: nothing, overrun, acceptance of a legal command, or a dispatch fault. -/
theorem writeCmd_cases {w : Word} {s t : State} (h : writeCmd w s = .next t) :
    (s.status.fault = true ∧ t = s) ∨
    (s.Running ∧ t = overrun s) ∨
    (s.Ready ∧ ∃ i, decode w = .ok i ∧ operandLegal i s.arg = true ∧ t = accept i.opcode s) ∨
    (s.Ready ∧ ∃ c op, c ≠ Cause.none ∧ t = dispatchFault c op s) := by
  unfold writeCmd at h
  cases hd : decode w with
  | ok i =>
    rw [hd] at h
    simp only [exec_eq_request, Host.Outcome.next.injEq] at h
    subst h
    rcases request_cases i.opcode (operandLegal i s.arg) s with ⟨hf, e⟩ | ⟨hr, e⟩ | ⟨hr, hl, e⟩ | ⟨hr, hl, e⟩
    · exact .inl ⟨hf, e⟩
    · exact .inr (.inl ⟨hr, e⟩)
    · exact .inr (.inr (.inl ⟨hr, i, rfl, hl, e⟩))
    · exact .inr (.inr (.inr ⟨hr, _, _, by decide, e⟩))
  | error _ =>
    rw [hd] at h
    simp only [Host.Outcome.next.injEq] at h
    subst h
    rcases illegalRequest_cases w s with ⟨hf, e⟩ | ⟨hr, e⟩ | ⟨hr, e⟩
    · exact .inl ⟨hf, e⟩
    · exact .inr (.inl ⟨hr, e⟩)
    · exact .inr (.inr (.inr ⟨hr, _, _, by decide, e⟩))

/-! ### Host accesses -/

/-- Everything an accepted host access can do. -/
theorem hostAccess_cases {a : Access} {s t : State} (h : hostAccess a s = .next t) :
    (∃ r, t = hostRead r s) ∨ (∃ v, t = { s with arg := v }) ∨ t = s ∨ ∃ w, writeCmd w s = .next t := by
  unfold hostAccess at h
  split at h
  · split at h
    · split at h
      · exact .inl ⟨_, by simpa using h.symm⟩
      · cases h
    · split at h
      · rename_i r _
        cases r
        case arg => exact .inr (.inl ⟨_, by simpa [writeReg] using h.symm⟩)
        case cmd => exact .inr (.inr (.inr ⟨_, h⟩))
        all_goals exact .inr (.inr (.inl (by simpa [writeReg] using h.symm)))
      · cases h
  · cases h

/-! ### The engine -/

/-- Everything one engine step can do. -/
theorem engineStep_cases {a : Answer} {s t : State} (h : engineStep a s = .next t) :
    ∃ j, jobOf s.curOp = some j ∧
      ((∃ m, nextOp j s = some m ∧ t = perform j m a s) ∨ (nextOp j s = none ∧ t = complete j s)) := by
  unfold engineStep at h
  split at h
  · cases h
  · rename_i j hj
    refine ⟨j, hj, ?_⟩
    split at h
    · rename_i m hm
      exact .inl ⟨m, hm, by simpa using h.symm⟩
    · rename_i hm
      exact .inr ⟨hm, by simpa using h.symm⟩

/-- Everything an engine turn can do. -/
theorem engineTurn_cases {a : Answer} {s t : State} (h : engineTurn a s = .next t) :
    (s.Running ∧ engineStep a s = .next t) ∨ (¬ s.Running ∧ t = s) := by
  unfold engineTurn Status.engineEnabled at h
  split at h
  · rename_i he
    simp only [Bool.and_eq_true, Bool.not_eq_true'] at he
    exact .inl ⟨he, h⟩
  · rename_i he
    refine .inr ⟨fun hr => he ?_, by simpa using h.symm⟩
    simp [hr.1, hr.2]

theorem engineTurn_running {a : Answer} {s : State} (h : s.Running) : engineTurn a s = engineStep a s := by
  simp [engineTurn, Status.engineEnabled, h.1, h.2]

theorem engineTurn_not_running {a : Answer} {s : State} (h : ¬ s.Running) : engineTurn a s = .next s := by
  unfold engineTurn Status.engineEnabled
  split
  · rename_i he
    simp only [Bool.and_eq_true, Bool.not_eq_true'] at he
    exact absurd he h
  · rfl

theorem engineStep_perform {a : Answer} {s : State} {j : Job} {m : MicroOp} (hj : jobOf s.curOp = some j)
    (hm : nextOp j s = some m) : engineStep a s = .next (perform j m a s) := by
  simp [engineStep, hj, hm]

theorem engineStep_complete {a : Answer} {s : State} {j : Job} (hj : jobOf s.curOp = some j)
    (hm : nextOp j s = none) : engineStep a s = .next (complete j s) := by
  simp [engineStep, hj, hm]

/-- A micro-operation that succeeds advances the sequence, one that fails takes the fault. -/
theorem microStep_cases (c : Cause) (m : MicroOp) (a : Answer) (s : State) :
    (∃ l v, m = .write l v ∧ a.fail = false ∧ microStep c m a s = ((s.setDrive l v).emit (.w l v)).advance) ∨
    (∃ l v, m = .write l v ∧ a.fail = true ∧ microStep c m a s = writeFault c l a s) ∨
    (∃ l, m = .read l ∧ a.fail = false ∧
      microStep c m a s = (s.emit (.r l (lineLevel s.drive a l))).advance) ∨
    (∃ l, m = .read l ∧ a.fail = true ∧ microStep c m a s = readFault .ioRead l s) ∨
    (m = .delay ∧ microStep c m a s = (s.emit .d).advance) := by
  cases m with
  | write l v =>
    cases hf : a.fail
    · exact .inl ⟨l, v, rfl, rfl, by simp [microStep, lineWrite, hf]⟩
    · exact .inr (.inl ⟨l, v, rfl, rfl, by simp [microStep, lineWrite, hf]⟩)
  | read l =>
    cases hf : a.fail
    · exact .inr (.inr (.inl ⟨l, rfl, rfl, by simp [microStep, lineRead, hf]⟩))
    · exact .inr (.inr (.inr (.inl ⟨l, rfl, rfl, by simp [microStep, lineRead, hf]⟩)))
  | delay => exact .inr (.inr (.inr (.inr ⟨rfl, rfl⟩)))

/-! ### Turns -/

@[simp] theorem takeTurn_reset (s : State) : takeTurn .reset s = .next (resetStep s) := rfl
@[simp] theorem takeTurn_host (a : Access) (s : State) : takeTurn (.host a) s = hostAccess a s := rfl
@[simp] theorem takeTurn_engine (a : Answer) (s : State) : takeTurn (.engine a) s = engineTurn a s := rfl

/-! ### The step -/

/-- Everything a step can do: reset, a host access, or a turn of the engine. -/
theorem step_cases {s t : State} (h : step s = .next t) :
    (∃ ts, s.turns = .reset :: ts ∧ t = resetStep (s.withTurns ts)) ∨
    (∃ a ts, s.turns = .host a :: ts ∧ hostAccess a (s.withTurns ts) = .next t) ∨
    (∃ a ts, s.turns = .engine a :: ts ∧ engineTurn a (s.withTurns ts) = .next t) ∨
    (s.turns = [] ∧ engineTurn (freeAnswer s.drawn) { s with drawn := s.drawn + 1 } = .next t) := by
  unfold step at h
  split at h
  · rename_i turn ts hs
    cases turn with
    | reset => exact .inl ⟨ts, hs, by simpa using h.symm⟩
    | host a => exact .inr (.inl ⟨a, ts, hs, h⟩)
    | engine a => exact .inr (.inr (.inl ⟨a, ts, hs, h⟩))
  · rename_i hs
    exact .inr (.inr (.inr ⟨hs, h⟩))

theorem step_host {s : State} {a : Access} {ts : List Turn} (h : s.turns = .host a :: ts) :
    step s = hostAccess a (s.withTurns ts) := by
  simp [step, h]

theorem step_engine {s : State} {a : Answer} {ts : List Turn} (h : s.turns = .engine a :: ts) :
    step s = engineTurn a (s.withTurns ts) := by
  simp [step, h]

theorem step_reset {s : State} {ts : List Turn} (h : s.turns = .reset :: ts) :
    step s = .next (resetStep (s.withTurns ts)) := by
  simp [step, h]

/-! ### Runs -/

theorem engineRun_append (p q : List Answer) (s : State) {t : State} (h : engineRun p s = .next t) :
    engineRun (p ++ q) s = engineRun q t := by
  induction p generalizing s with
  | nil => simp only [engineRun, Host.Outcome.next.injEq] at h; subst h; rfl
  | cons a as ih =>
    simp only [engineRun, List.cons_append] at h ⊢
    split at h
    · exact ih _ h
    · cases h
    · cases h

/-- While the engine has no step its turns pass. -/
theorem engineRun_not_running (as : List Answer) {s : State} (h : ¬ s.Running) : engineRun as s = .next s := by
  induction as with
  | nil => rfl
  | cons a as ih => simp only [engineRun, engineTurn_not_running h, ih]

end Sys2Proof.Machine
end

