-- ==== Sys2Proof/Laws/Words.lean ====
section
/-! SUPPORT. The bits of the words the model concatenates (spec/00_scope.md R10: `{a, b}`). -/

namespace Sys2Proof.Machine

theorem getLsbD_packSeg4 (b0 b1 b2 b3 : Byte) (i : Nat) :
    (packSeg4 b0 b1 b2 b3).getLsbD i =
      if i < 8 then b0.getLsbD i
      else if i < 16 then b1.getLsbD (i - 8)
      else if i < 24 then b2.getLsbD (i - 16)
      else b3.getLsbD (i - 24) := by
  unfold packSeg4
  erw [BitVec.getLsbD_append, BitVec.getLsbD_append, BitVec.getLsbD_append]
  split_ifs <;> first | rfl | omega

theorem getLsbD_packDig4 (d0 d1 d2 d3 : Nibble) (i : Nat) :
    (packDig4 d0 d1 d2 d3).getLsbD i =
      if i < 4 then d0.getLsbD i
      else if i < 8 then d1.getLsbD (i - 4)
      else if i < 12 then d2.getLsbD (i - 8)
      else d3.getLsbD (i - 12) := by
  unfold packDig4
  rw [BitVec.getLsbD_setWidth]
  erw [BitVec.getLsbD_append, BitVec.getLsbD_append, BitVec.getLsbD_append]
  by_cases h : i < 32
  · simp only [h, decide_true, Bool.true_and]
    split_ifs <;> first | rfl | omega
  · have : 4 ≤ i - 12 := by omega
    simp only [h, decide_false, Bool.false_and, BitVec.getLsbD_of_ge _ _ this]
    split_ifs <;> first | rfl | omega

theorem getLsbD_statusWord (t : Status) (i : Nat) :
    t.word.getLsbD i =
      if i = 0 then t.busy
      else if i = 1 then t.fault
      else if i = 2 then t.ovr
      else if i = 3 then false
      else if i < 8 then t.cause.code.getLsbD (i - 4)
      else if i < 16 then t.faultOp.getLsbD (i - 8)
      else t.faultStep.getLsbD (i - 16) := by
  refine (BitVec.getLsbD_append (n := 31) (m := 1)).trans ?_
  rw [show (t.faultStep ++ t.faultOp ++ t.cause.code ++ 0#1 ++ BitVec.ofBool t.ovr ++ BitVec.ofBool t.fault : BitVec 31).getLsbD (i - 1) = _
    from BitVec.getLsbD_append (n := 30) (m := 1)]
  rw [show (t.faultStep ++ t.faultOp ++ t.cause.code ++ 0#1 ++ BitVec.ofBool t.ovr : BitVec 30).getLsbD (i - 1 - 1) = _
    from BitVec.getLsbD_append (n := 29) (m := 1)]
  rw [show (t.faultStep ++ t.faultOp ++ t.cause.code ++ 0#1 : BitVec 29).getLsbD (i - 1 - 1 - 1) = _
    from BitVec.getLsbD_append (n := 28) (m := 1)]
  rw [show (t.faultStep ++ t.faultOp ++ t.cause.code : BitVec 28).getLsbD (i - 1 - 1 - 1 - 1) = _
    from BitVec.getLsbD_append (n := 24) (m := 4)]
  rw [show (t.faultStep ++ t.faultOp : BitVec 24).getLsbD (i - 1 - 1 - 1 - 1 - 4) = _
    from BitVec.getLsbD_append (n := 16) (m := 8)]
  simp only [BitVec.getLsbD_ofBool]
  rcases i with _ | _ | _ | _ | i
  · simp
  · simp
  · simp
  · simp
  · simp
    split_ifs <;> first | omega | (congr 1; try omega)

end Sys2Proof.Machine
end

