-- ==== Sys2Proof/Laws/HostProgram.lean ====
section
/-! SUPPORT. What a mnemonic issued by the host does (spec/30_encoding.md R88): how `WAIT_IDLE` ends, and that the others
make their accesses once. -/

namespace Sys2Proof.Machine

theorem lastRead_hostRead (r : Reg) (s : State) : (hostRead r s).lastRead = readReg r s := by
  simp [State.lastRead, hostRead]

/-- Bit 0 of the word a host reads from `STATUS` is `BUSY` (R25). -/
theorem busy_bit (t : Status) : t.word.getLsbD 0 = t.busy := by
  rw [getLsbD_statusWord]; rfl

/-- One round of the loop: a read of `STATUS`, then another round exactly while it shows `BUSY`. -/
theorem issue_waitIdle (between : List (List Turn)) (s : State) :
    issue .waitIdle between s =
      if s.status.busy then
        match between with
        | [] => .next (false, hostRead .status s)
        | turns :: rest =>
          match takeTurns turns (hostRead .status s) with
          | .next u => issue .waitIdle rest u
          | .fault r => .fault r
          | .refused r => .refused r
      else .next (true, hostRead .status s) := by
  have hb : Mnemonic.again .waitIdle (hostRead .status s).lastRead = s.status.busy := by
    rw [lastRead_hostRead]; exact busy_bit s.status
  have ht : takeTurns ((Mnemonic.expand .waitIdle).map .host) s = .next (hostRead .status s) := rfl
  rw [issue.eq_def, ht]
  cases between <;> exact if_congr (by rw [hb]) rfl rfl

/-- `WAIT_IDLE` ends exactly when the host has read `BUSY = 0`: it has ended in an idle block and waits on in a busy
one, the value just read being the block's status. -/
theorem issue_waitIdle_ended_iff {between : List (List Turn)} {s t : State} {ended : Bool}
    (h : issue .waitIdle between s = .next (ended, t)) :
    ended = !t.status.busy ∧ t.lastRead = t.status.word := by
  induction between generalizing s with
  | nil =>
    rw [issue_waitIdle] at h
    cases hb : s.status.busy <;> simp only [hb, if_true, Bool.false_eq_true, if_false] at h <;> cases h <;>
      exact ⟨by simp [hostRead, hb], lastRead_hostRead _ _⟩
  | cons turns rest ih =>
    rw [issue_waitIdle] at h
    cases hb : s.status.busy <;> simp only [hb, if_true, Bool.false_eq_true, if_false] at h
    · cases h
      exact ⟨by simp [hostRead, hb], lastRead_hostRead _ _⟩
    · split at h
      · exact ih h
      · cases h
      · cases h

/-- Every other mnemonic makes its accesses once. -/
theorem issue_once {m : Mnemonic} (hm : m ≠ .waitIdle) (between : List (List Turn)) {s t : State}
    (h : takeTurns (m.expand.map .host) s = .next t) : issue m between s = .next (true, t) := by
  rw [issue.eq_def, h]
  cases m with
  | waitIdle => exact absurd rfl hm
  | _ => rfl

end Sys2Proof.Machine
end

