-- ==== Sys2Proof/Laws/PerInstr.lean ====
section
/-! SUPPORT. The statements made of each command as syntax, one lemma per constructor. -/

namespace Sys2Proof.Laws.OneWord

/-- R80: the command word is its opcode, with the reserved field 0, and the command is well-formed. -/
def Statement (i : Instr) : Prop :=
  opcodeField (encode i) = i.opcode ∧ reservedField (encode i) = 0#24 ∧ i.wf = true

theorem setSegments : Statement .setSegments := ⟨by decide, by decide, rfl⟩

theorem showDigits : Statement .showDigits := ⟨by decide, by decide, rfl⟩

theorem showBlanked : Statement .showBlanked := ⟨by decide, by decide, rfl⟩

theorem scan : Statement .scan := ⟨by decide, by decide, rfl⟩

theorem poll : Statement .poll := ⟨by decide, by decide, rfl⟩

theorem debClear : Statement .debClear := ⟨by decide, by decide, rfl⟩

end Sys2Proof.Laws.OneWord
end

