-- ==== Sys2Proof/Laws/Receiver.lean ====
section
/-! SUPPORT. When the reference receiver's content is known (spec/41_display.md R164, R165). -/

namespace Sys2Proof.Machine

@[simp] theorem Receiver.forget_shown (r : Receiver) : r.forget.shown = none := rfl
@[simp] theorem Receiver.forget_stored (r : Receiver) : r.forget.stored = nothingStored := rfl
@[simp] theorem Receiver.forget_dataMode (r : Receiver) : r.forget.dataMode = false := rfl
@[simp] theorem Receiver.forget_current (r : Receiver) : r.forget.current = r.current := rfl

/-- R43, R243, U8: after a reset nothing is known of the display, wherever the reset falls. -/
theorem Receiver.feed_reset {r r' : Receiver} (h : r.feed .reset = some r') : r' = r.forget ∧ r'.shown = none := by
  simp only [Receiver.feed] at h
  split at h
  · cases h
  · cases h; exact ⟨rfl, rfl⟩

theorem Receiver.take_shown {r r' : Receiver} {f : OpenFrame} {b : Byte} (h : r.take f b = some r') :
    r'.shown = r.shown := by
  unfold Receiver.take at h
  repeat' split at h
  all_goals first | cases h; rfl | cases h

theorem Receiver.clock_shown {r r' : Receiver} {v : Bool} (h : r.clock v = some r') : r'.shown = r.shown := by
  unfold Receiver.clock at h
  split at h
  · split at h <;> cases h <;> rfl
  · split at h
    · cases h; rfl
    · split at h
      · have hs := take_shown h
        exact hs
      · cases h; rfl
  · cases h; rfl

theorem Receiver.data_shown {r r' : Receiver} {v : Bool} {d : Shown} (h : r.data v = some r')
    (hd : r'.shown = some d) :
    r.shown = some d ∨
      (v = true ∧ r.stored.all Option.isSome = true ∧
        ∃ f, r.current = some f ∧ f.kind = .control d.brightness ∧ d.bytes = r.stored.filterMap id) := by
  unfold Receiver.data at h
  split at h
  · split at h
    · cases h; cases hd
    · cases h
  · rename_i hv
    split at h
    · cases h; exact .inl hd
    · rename_i f hf
      cases h
      simp only [Receiver.shownAfter] at hd
      split at hd
      · rename_i level hk
        split at hd
        · rename_i ha
          cases hd
          exact .inr ⟨(Bool.and_eq_true_iff.mp hv).1, ha, f, hf, hk, rfl⟩
        · cases hd
      all_goals cases hd
  · cases h; exact .inl hd

/-- R165: a content that was not known before becomes known only at the STOP of a `0x8F` frame that follows all four
bytes. -/
theorem Receiver.feed_shown {r r' : Receiver} {e : Event} {d : Shown} (h : r.feed e = some r')
    (hd : r'.shown = some d) :
    r.shown = some d ∨
      (e = .w .dio true ∧ r.stored.all Option.isSome = true ∧
        ∃ f, r.current = some f ∧ f.kind = .control d.brightness ∧ d.bytes = r.stored.filterMap id) := by
  cases e with
  | w l v =>
    cases l with
    | clk => exact .inl (clock_shown h ▸ hd)
    | dio => exact (data_shown h hd).imp id fun ⟨hv, hs⟩ => ⟨hv ▸ rfl, hs⟩
    | _ => cases h; exact .inl hd
  | reset => cases (feed_reset h).2.symm.trans hd
  | r l v =>
    cases l with
    | dio =>
      simp only [Receiver.feed] at h
      split at h <;> cases h
      exact .inl hd
    | col c => cases h; exact .inl hd
  | d => cases h; exact .inl hd
  | wFail l => cases l <;> cases h <;> exact .inl hd
  | rFail l =>
    cases l with
    | dio =>
      simp only [Receiver.feed] at h
      split at h <;> cases h
      exact .inl hd
    | col c => cases h; exact .inl hd

end Sys2Proof.Machine
end

