-- ==== Sys2Proof/Laws/Runs.lean ====
section
/-! SUPPORT. Runs of the engine over a fixed sequence of micro-operations (the display commands and the line
initialization), and that every DIO read of a display sequence is made with DIO released. -/

namespace Sys2Proof.Machine

/-! ### Reads with DIO released -/

/-- From drive states `d`, every DIO read of the sequence is made while `DIO_DRV = 1`. -/
def ReadsReleased : Drive → List MicroOp → Prop
  | _, [] => True
  | d, .write l v :: ops => ReadsReleased (d.set l v) ops
  | d, .read .dio :: ops => d.dio = true ∧ ReadsReleased d ops
  | d, .read (.col _) :: ops => ReadsReleased d ops
  | d, .delay :: ops => ReadsReleased d ops

theorem readsReleased_append (d : Drive) (p q : List MicroOp) :
    ReadsReleased d (p ++ q) ↔ ReadsReleased d p ∧ ReadsReleased (d.after p) q := by
  induction p generalizing d with
  | nil => simp [ReadsReleased]
  | cons m p ih =>
    cases m with
    | write l v => simp [ReadsReleased, ih]
    | read l => cases l <;> simp [ReadsReleased, ih, and_assoc]
    | delay => simp [ReadsReleased, ih]

theorem readsReleased_bits (d : Drive) (bits : List Bool) : ReadsReleased d (bits.flatMap sendBit) := by
  induction bits generalizing d with
  | nil => trivial
  | cons b bits ih =>
    rw [List.flatMap_cons, readsReleased_append]
    exact ⟨trivial, ih _⟩

theorem readsReleased_sendByte (d : Drive) (b : Byte) : ReadsReleased d (sendByte b) := by
  rw [sendByte, readsReleased_append]
  refine ⟨readsReleased_bits _ _, ?_⟩
  simp [ackClock, writeHold, ReadsReleased, Drive.set]

theorem readsReleased_bytes (d : Drive) (bytes : List Byte) : ReadsReleased d (bytes.flatMap sendByte) := by
  induction bytes generalizing d with
  | nil => trivial
  | cons b bytes ih =>
    rw [List.flatMap_cons, readsReleased_append]
    exact ⟨readsReleased_sendByte _ _, ih _⟩

theorem readsReleased_frame (d : Drive) (bytes : List Byte) : ReadsReleased d (frame bytes) := by
  rw [frame, readsReleased_append, readsReleased_append]
  exact ⟨⟨trivial, readsReleased_bytes _ _⟩, trivial⟩

theorem readsReleased_updateSeq (d : Drive) (bytes : List Byte) : ReadsReleased d (updateSeq bytes) := by
  rw [updateSeq, readsReleased_append, readsReleased_append]
  exact ⟨⟨readsReleased_frame _ _, readsReleased_frame _ _⟩, readsReleased_frame _ _⟩

/-! ### A job with a fixed sequence -/

/-- With latched operand `argL` the job performs exactly `ops`, its writes fail with cause `c`, and it commits nothing
but `BUSY`. -/
def Follows (j : Job) (c : Cause) (argL : Word) (ops : List MicroOp) : Prop :=
  (∀ s : State, s.argL = argL → nextOp j s = ops[s.seqIdx.toNat]?) ∧
  (∀ m a s, perform j m a s = microStep c m a s) ∧
  (∀ s, complete j s = finish s)

theorem follows_setSegments (v : Word) : Follows (.command .setSegments) .ioDrive v (setSegmentsSeq v) :=
  ⟨fun s h => by simp [nextOp, h], fun _ _ _ => rfl, fun _ => rfl⟩

theorem follows_showDigits (v : Word) : Follows (.command .showDigits) .ioDrive v (showDigitsSeq v) :=
  ⟨fun s h => by simp [nextOp, h], fun _ _ _ => rfl, fun _ => rfl⟩

theorem follows_showBlanked (v : Word) : Follows (.command .showBlanked) .ioDrive v (showBlankedSeq v) :=
  ⟨fun s h => by simp [nextOp, h], fun _ _ _ => rfl, fun _ => rfl⟩

theorem follows_lineInit (v : Word) : Follows .lineInit .ioInit v lineInitSeq :=
  ⟨fun s _ => by simp [nextOp], fun _ _ _ => rfl, fun _ => rfl⟩

/-- The rest of a fixed sequence, run without a failure to its completion. -/
theorem engineRun_follows {j : Job} {c : Cause} {argL : Word} {ops : List MicroOp} (hf : Follows j c argL ops)
    (hq : ops.length < 65536) :
    ∀ (rest done : List MicroOp) (s : State) (answers : List Answer), ops = done ++ rest → s.argL = argL →
      jobOf s.curOp = some j → s.Running → s.seqIdx.toNat = done.length → rest.length < answers.length →
      NoFailure answers → ReadsReleased s.drive rest →
      engineRun answers s = .next
        { s with
          status := { s.status with busy := false }
          seqIdx := BitVec.ofNat 16 ops.length
          drive := s.drive.after rest
          trace := s.trace ++ List.zipWith displayEvent rest answers } := by
  intro rest
  induction rest with
  | nil =>
    intro done s answers hops hL hj hr hi hlen hnf hg
    cases answers with
    | nil => simp at hlen
    | cons a as =>
      have hn : nextOp j s = none := by rw [hf.1 s hL, hi, hops]; simp
      simp only [engineRun, engineTurn_running hr, engineStep_complete hj hn, hf.2.2]
      rw [engineRun_not_running]
      · have : s.seqIdx = BitVec.ofNat 16 ops.length := by
          apply BitVec.eq_of_toNat_eq
          simp only [hi, hops, List.append_nil, BitVec.toNat_ofNat] at hq ⊢
          omega
        simp only [finish, ← this]
        simp
      · intro h
        simp [State.Running] at h
  | cons m rest ih =>
    intro done s answers hops hL hj hr hi hlen hnf hg
    cases answers with
    | nil => simp at hlen
    | cons a as =>
      have hn : nextOp j s = some m := by rw [hf.1 s hL, hi, hops]; simp
      have ha : a.fail = false := hnf a (by simp)
      have has : NoFailure as := fun x hx => hnf x (by simp [hx])
      have hlt : done.length + 1 < 65536 := by simp [hops] at hq; omega
      have hi' : (s.seqIdx + 1#16).toNat = (done ++ [m]).length := by
        simp [BitVec.toNat_add, hi]; omega
      have hops' : ops = (done ++ [m]) ++ rest := by simp [hops]
      have hlen' : rest.length < as.length := by simpa using hlen
      simp only [engineRun, engineTurn_running hr, engineStep_perform hj hn, hf.2.1]
      cases m with
      | write l v =>
        simp only [microStep, lineWrite, ha, Bool.false_eq_true, if_false]
        rw [ih (done ++ [_]) (((s.setDrive l v).emit (.w l v)).advance) as hops' hL hj hr hi' hlen' has hg]
        simp [displayEvent, State.advance, State.emit, State.setDrive]
      | read l =>
        simp only [microStep, lineRead, ha, Bool.false_eq_true, if_false]
        cases l with
        | dio =>
          rw [ih (done ++ [_]) ((s.emit (.r .dio (lineLevel s.drive a .dio))).advance) as hops' hL hj hr hi' hlen' has
            hg.2]
          simp [displayEvent, State.advance, State.emit, lineLevel, hg.1]
        | col k =>
          rw [ih (done ++ [_]) ((s.emit (.r (.col k) (lineLevel s.drive a (.col k)))).advance) as hops' hL hj hr hi'
            hlen' has hg]
          simp [displayEvent, State.advance, State.emit, lineLevel]
      | delay =>
        simp only [microStep, delay]
        rw [ih (done ++ [_]) ((s.emit .d).advance) as hops' hL hj hr hi' hlen' has hg]
        simp [displayEvent, State.advance, State.emit]

end Sys2Proof.Machine
end

