-- ==== Sys2Proof/Tests/Slice0.lean ====
section
/-! SUPPORT. The model's own tests: decoding of written-out words, the WellFormed smoke, the spec's vectors
(spec/95_test_vectors.md) one step at a time, and a witness for the hypotheses of each statement. -/

namespace Sys2Proof.Tests

open Sys2Proof.Machine

/-! ### Decoding: each word written out from R81, OPCODE in bits 7:0 and RSV 0 above -/

theorem test_decode_set_segments : decode 0b00000000000000000000000000000001#32 = .ok .setSegments := by decide
theorem test_decode_show_digits : decode 0b00000000000000000000000000000010#32 = .ok .showDigits := by decide
theorem test_decode_show_blanked : decode 0b00000000000000000000000000000011#32 = .ok .showBlanked := by decide
theorem test_decode_scan : decode 0b00000000000000000000000000010000#32 = .ok .scan := by decide
theorem test_decode_poll : decode 0b00000000000000000000000000010001#32 = .ok .poll := by decide
theorem test_decode_deb_clear : decode 0b00000000000000000000000000010010#32 = .ok .debClear := by decide

/-- The words at the edges of R82's ranges are no commands. -/
theorem test_decode_illegal :
    [0x00#32, 0x04#32, 0x0F#32, 0x13#32, 0xFF#32].all (fun w => decode w == .error .unlistedOpcode) = true ∧
    [0x100#32, 0x101#32, 0x80000001#32].all (fun w => decode w == .error .reservedBits) = true := by decide

/-- R62: the first byte is the least significant. -/
theorem test_decode_bytes : decodeBytes [0x11#8, 0#8, 0#8, 0#8, 7#8] = .ok (.poll, [7#8]) := by decide
theorem test_decode_short : decodeBytes [0x11#8, 0#8, 0#8] = .error .shortWord := by decide

/-! ### WellFormed smoke: one ill-formed term for each check -/

theorem test_wf_access :
    (Access.rd 32 0x1C).wf = true ∧ (Access.wr 32 0x04 0#32).wf = true ∧
    (Access.rd 8 0x00).wf = false ∧ (Access.wr 64 0x00 0#32).wf = false ∧
    (Access.rd 32 0x02).wf = false ∧ (Access.wr 32 0x20 0#32).wf = false := by decide

theorem test_wf_mnemonic :
    (Mnemonic.showDigits 10#4 0#4 0#4 10#4).wf = true ∧ (Mnemonic.showDigits 0#4 11#4 0#4 0#4).wf = false ∧
    (Mnemonic.showBlanked 9#4 9#4 9#4 9#4).wf = true ∧ (Mnemonic.showBlanked 0#4 0#4 0#4 10#4).wf = false := by decide

/-! ### Small states -/

/-- The next state of an outcome. -/
def nextOf : Host.Outcome State Machine.Fault Refusal → Option State
  | .next s => some s
  | .fault _ => none
  | .refused _ => none

/-- Right after reset with a given `ARG`. -/
def withArg (v : Word) : State := { State.reset with arg := v }

/-- `STATUS` after a `CMD` write. -/
def statusAfter (s : State) (w : Nat) : Option Word := (nextOf (step (s.withFetchWord 32 w))).map fun t => t.status.word

/-- Nothing fails, the module acknowledges, no key is pressed. -/
def good : Answer := { fail := false, pull := true, col := true, held := false }

/-- The line operation fails and leaves its line high. -/
def bad : Answer := { fail := true, pull := true, col := true, held := true }

/-- A command in progress at an index, on the lines given. -/
def inside (i : Instr) (n : BitVec 16) (d : Drive) : State :=
  { State.reset with
    curOp := i.opcode, argL := 0x664FDB06#32, seqIdx := n, drive := d, status := { Status.clear with busy := true } }

/-! ### The spec's vectors -/

/-- V1, V2, V3. -/
theorem test_illegal_command :
    statusAfter State.reset 0x00 = some 0x00000042#32 ∧ statusAfter State.reset 0x13 = some 0x00001342#32 ∧
    statusAfter State.reset 0x101 = some 0x00000142#32 := by decide

/-- V8: any operand is accepted. -/
theorem test_set_segments_accepted : statusAfter (withArg 0xFFFFFFFF#32) 0x01 = some 0x00000001#32 := by decide

/-- V4, V5, V7. -/
theorem test_show_digits_request :
    statusAfter (withArg 0x0000B000#32) 0x02 = some 0x00000252#32 ∧
    statusAfter (withArg 0x0000A000#32) 0x02 = some 0x00000001#32 ∧
    statusAfter (withArg 0x00014321#32) 0x02 = some 0x00000252#32 := by decide

/-- V6, and a legal operand. -/
theorem test_show_blanked_request :
    statusAfter (withArg 0x0000A000#32) 0x03 = some 0x00000352#32 ∧
    statusAfter (withArg 0x00009590#32) 0x03 = some 0x00000001#32 := by decide

/-- L2.3, with the default table. -/
theorem test_show_digits_bytes :
    showDigitsBytes defaultSeg 0x00004321#32 = [0x06#8, 0xDB#8, 0x4F#8, 0x66#8] ∧
    showDigitsBytes defaultSeg 0x0000AAAA#32 = [0x00#8, 0x80#8, 0x00#8, 0x00#8] := by decide

/-- L2.4, with the default table: C3's corrected example, and a kept zero. -/
theorem test_show_blanked_bytes :
    showBlankedBytes defaultSeg 0x00005000#32 = [0x00#8, 0x80#8, 0x00#8, 0x6D#8] ∧
    showBlankedBytes defaultSeg 0x00000010#32 = [0x00#8, 0x86#8, 0x3F#8, 0x3F#8] := by decide

/-- V60: the write at index 130 fails with CLK low; STATUS and LINES. -/
theorem test_set_segments_fault :
    (nextOf (engineTurn bad (inside .setSegments 130#16 { Drive.idle with clk := false, dio := false }))).map
      (fun t => (t.status.word, t.drive.word)) = some (0x00820112#32, 0x000000F2#32) := by decide

/-- V63: the read at index 7 of a POLL fails with ROW1 low. -/
theorem test_poll_fault :
    (nextOf (engineTurn bad (inside .poll 7#16 { Drive.idle with row1 := false }))).map
      (fun t => (t.status.word, t.drive.word)) = some (0x00071122#32, 0x000000D3#32) := by decide

/-- V65: the last write of a SCAN without a key fails. -/
theorem test_scan_fault :
    (nextOf (engineTurn bad (inside .scan 19#16 { Drive.idle with row3 := false }))).map
      (fun t => (t.status.word, t.drive.word)) = some (0x00131012#32, 0x000000F3#32) := by decide

/-- L2.5: the read of column 1 in row 1 reads low: key 4 is found and ROW1 is restored next. -/
theorem test_scan_hit :
    (nextOf (engineTurn { good with col := false } (inside .scan 7#16 { Drive.idle with row1 := false }))).map
      (fun t => (t.scanHit, t.kTmp, nextOp (.command .scan) t)) = some (some 4, none, some (.write .row1 true)) := by
  decide

/-- V41, poll 1 and poll 2: accepted at first sight, not while held. -/
theorem test_poll_event :
    pollEvent (some 0) 0x00#32 = 0x110#32 ∧ pollEvent (some 0) 0x10#32 = 0x000#32 ∧
    pollEvent (some 10) 0x10#32 = 0x11A#32 ∧ pollEvent none 0x10#32 = 0#32 := by decide

/-- V50, V51: the completion step of DEB_CLEAR. -/
theorem test_deb_clear :
    (nextOf (engineTurn bad { inside .debClear 0#16 Drive.idle with prev := 0x14#32, keyEvt := 0x154#32 })).map
      (fun t => (t.prev, t.keyEvt, t.status.word)) = some (0#32, 0x154#32, 0#32) := by decide

/-- V10, V11: a request while busy, and one while faulted. -/
theorem test_request_busy_and_faulted :
    statusAfter (inside .scan 0#16 Drive.idle) 0x13 = some 0x00000005#32 ∧
    statusAfter { State.reset with status := { Status.clear with fault := true, cause := .illegalOperand, faultOp := 2#8 } }
      0x01 = some 0x00000252#32 := by decide

/-- R88: `WAIT_IDLE` during a DEB_CLEAR reads `BUSY = 1`, waits for the engine's turn, reads 0 and ends; without the turn
it still waits. -/
theorem test_wait_idle :
    (match issue .waitIdle [[.engine good]] (inside .debClear 0#16 Drive.idle) with
      | .next (ended, t) => (ended, t.reads) == (true, [1#32, 0#32])
      | _ => false) = true ∧
    (match issue .waitIdle [] (inside .debClear 0#16 Drive.idle) with
      | .next (ended, t) => (ended, t.reads) == (false, [1#32])
      | _ => false) = true := by decide

/-- R88: SHOW_DIGITS writes `ARG` and then `CMD`. -/
theorem test_issue_show_digits :
    (match issue (.showDigits 1#4 2#4 3#4 4#4) [] State.reset with
      | .next (ended, t) => (ended, t.arg, t.curOp) == (true, 0x00004321#32, 0x02#8)
      | _ => false) = true := by decide

/-- U8: a reset on an idle bus leaves nothing known of the display. -/
theorem test_receiver_reset :
    Receiver.feed { Receiver.unknown with dataMode := true, shown := some { bytes := [1#8, 2#8, 3#8, 4#8], brightness := 7 } }
      .reset = some Receiver.unknown := by decide

/-- A command placed by the host's probe is the very next thing the machine runs from reset. -/
theorem test_first_command_after_reset (i : Instr) :
    step (State.reset.withFetchWord 32 (encode i).toNat) = exec i State.reset := by
  cases i <;> rfl

/-! ### Witnesses for the statements' hypotheses -/

theorem test_witness_good (n : Nat) : NoFailure (List.replicate n good) := by
  intro a ha
  rw [List.eq_of_mem_replicate ha]; rfl

theorem test_witness_ready : State.reset.Ready ∧ State.reset.drive.RowsHigh := by
  exact ⟨⟨rfl, rfl⟩, rfl, rfl, rfl, rfl⟩

theorem test_witness_running : (inside .poll 3#16 { Drive.idle with row0 := false }).Running := ⟨rfl, rfl⟩

theorem test_witness_StepRunsDecodedCommand :
    ∃ (s : State) (ts : List Turn) (w : Word) (i : Instr),
      s.turns = .host (.wr 32 0x04 w) :: ts ∧ decode w = .ok i :=
  ⟨{ State.reset with turns := [.host (.wr 32 0x04 0x12#32)] }, [], 0x12#32, .debClear, rfl, by decide⟩

theorem test_witness_ReadyBlockAcceptsLegalCommand :
    (withArg 0x0000AAAA#32).Ready ∧ operandLegal .showDigits 0x0000AAAA#32 = true ∧
    operandLegal .showBlanked 0x00009999#32 = true ∧ operandLegal .setSegments 0xFFFFFFFF#32 = true :=
  ⟨⟨rfl, rfl⟩, by decide⟩

theorem test_witness_IllegalOperandIsADispatchFault :
    (withArg 0x0000A000#32).Ready ∧ operandLegal .showBlanked 0x0000A000#32 = false ∧
    operandLegal .showDigits 0x0000B000#32 = false ∧ operandLegal .showDigits 0x00010000#32 = false :=
  ⟨⟨rfl, rfl⟩, by decide⟩

theorem test_witness_UnlistedWordIsADispatchFault :
    ∃ (s : State) (ts : List Turn) (w : Word), s.turns = .host (.wr 32 0x04 w) :: ts ∧ s.Ready ∧
      w ∉ [0x00000001#32, 0x00000002#32, 0x00000003#32, 0x00000010#32, 0x00000011#32, 0x00000012#32] :=
  ⟨{ State.reset with turns := [.host (.wr 32 0x04 0x101#32)] }, [], 0x101#32, rfl, ⟨rfl, rfl⟩, by decide⟩

theorem test_witness_RequestWhileBusySetsOverrunOnly :
    ∃ (s : State) (ts : List Turn) (w : Word), s.turns = .host (.wr 32 0x04 w) :: ts ∧ s.Running :=
  ⟨{ inside .scan 0#16 Drive.idle with turns := [.host (.wr 32 0x04 0x13#32)] }, [], 0x13#32, rfl, rfl, rfl⟩

theorem test_witness_OverrunStaysUntilReset :
    ∃ s t : State, s.status.ovr = true ∧ step s = .next t ∧ t.status.busy = false ∧ s.status.busy = true :=
  ⟨{ inside .debClear 0#16 Drive.idle with
      turns := [.engine good], status := { Status.clear with busy := true, ovr := true } }, _, rfl, rfl, rfl, rfl⟩

/-- A faulted block with a turn of each agent waiting. -/
def faulted (turn : Turn) : State :=
  { State.reset with
    turns := [turn], status := { Status.clear with fault := true, cause := .illegalOperand, faultOp := 2#8 } }

theorem test_witness_RequestWhileFaultedIsIgnored :
    ∃ (s : State) (ts : List Turn) (w : Word), s.turns = .host (.wr 32 0x04 w) :: ts ∧ s.status.fault = true :=
  ⟨faulted (.host (.wr 32 0x04 0x01#32)), [], 0x01#32, rfl, rfl⟩

theorem test_witness_FaultStaysUntilReset :
    (∃ t, step (faulted (.engine bad)) = .next t) ∧ (∃ t, step (faulted (.host (.wr 32 0x00 7#32))) = .next t) ∧
    (∃ t, step (faulted .reset) = .next t) :=
  ⟨⟨_, rfl⟩, ⟨_, rfl⟩, ⟨_, rfl⟩⟩

/-- R100's first and last offsets, and two between. -/
theorem test_witness_ReadReturnsRegisterAndChangesNothing (s : State) :
    ((0x00, s.arg) ∈ [(0x00, s.arg), (0x04, 0#32), (0x08, s.status.word), (0x0C, s.keyRes), (0x10, s.keyEvt),
      (0x14, s.prev), (0x18, (BitVec.ofBool s.drive.row3 ++ BitVec.ofBool s.drive.row2 ++ BitVec.ofBool s.drive.row1 ++
        BitVec.ofBool s.drive.row0 ++ 0b00#2 ++ BitVec.ofBool s.drive.dio ++ BitVec.ofBool s.drive.clk).setWidth 32), (0x1C, 0#32)]) ∧
    ((0x1C, 0#32) ∈ [(0x00, s.arg), (0x04, 0#32), (0x08, s.status.word), (0x0C, s.keyRes), (0x10, s.keyEvt),
      (0x14, s.prev), (0x18, (BitVec.ofBool s.drive.row3 ++ BitVec.ofBool s.drive.row2 ++ BitVec.ofBool s.drive.row1 ++
        BitVec.ofBool s.drive.row0 ++ 0b00#2 ++ BitVec.ofBool s.drive.dio ++ BitVec.ofBool s.drive.clk).setWidth 32), (0x1C, 0#32)]) ∧
    ∃ t : State, t.turns = .host (.rd 32 0x1C) :: [] :=
  ⟨by simp, by simp, { s with turns := [.host (.rd 32 0x1C)] }, rfl⟩

theorem test_witness_ArgWriteChangesArgOnly :
    ∃ (s : State) (ts : List Turn) (v : Word), s.turns = .host (.wr 32 0x00 v) :: ts :=
  ⟨{ State.reset with turns := [.host (.wr 32 0x00 0x4321#32)] }, [], 0x4321#32, rfl⟩

theorem test_witness_ReadOnlyWriteIsIgnored :
    ∃ (s : State) (ts : List Turn) (o : Nat) (v : Word),
      s.turns = .host (.wr 32 o v) :: ts ∧ o ∈ [0x08, 0x0C, 0x10, 0x14, 0x18, 0x1C] :=
  ⟨{ State.reset with turns := [.host (.wr 32 0x1C 1#32)] }, [], 0x1C, 1#32, rfl, by decide⟩

/-- The first offset above the window, a misaligned one and a narrow access; then a step that is refused. -/
theorem test_witness_OnlyBadAccessesAreRefused :
    ((32 ≠ 32 ∨ 0x20 % 4 ≠ 0 ∨ 0x1C < 0x20) ∧ (32 ≠ 32 ∨ 0x1E % 4 ≠ 0 ∨ 0x1C < 0x1E) ∧
      (16 ≠ 32 ∨ 0x00 % 4 ≠ 0 ∨ 0x1C < 0x00)) ∧
    ∃ (s : State) (r : Refusal), step s = .refused r :=
  ⟨by decide, { State.reset with turns := [.host (.rd 32 0x20)] }, _, rfl⟩

theorem test_witness_BusWindowAndBytes :
    (31 < 32 ∧ 3 < 4) ∧ regAt (4 * 7) = some .reserved ∧ ∃ a, Config.base + 32 ≤ a :=
  ⟨by decide, rfl, Config.base + 32, Nat.le_refl _⟩

theorem test_witness_UpdateLengthAndDuration (v : Word) :
    showBlankedSeq v ∈ [setSegmentsSeq v, showDigitsSeq v, showBlankedSeq v] := by simp

theorem test_witness_ShowCommandsReuseTheSetSegmentsSequence :
    let v := 0x00005000#32
    blank [v.extractLsb' 0 4, v.extractLsb' 4 4, v.extractLsb' 8 4, v.extractLsb' 12 4] = [10#4, 10#4, 10#4, 5#4] := by
  decide

/-- The last position, and the one before it, of `0, 0, 0, 0`. -/
theorem test_witness_BlankingStopsAtFirstNonzeroDigit :
    [0#4, 0#4, 0#4, 0#4][3]? = some 0#4 ∧ ¬ (3 + 1 < 4) ∧ [0#4, 0#4, 0#4, 0#4][2]? = some 0#4 ∧ 2 + 1 < 4 := by
  decide

theorem test_witness_BlankingCornerCases :
    (0x00005000#32).extractLsb' 0 4 = 0#4 ∧ (0x00005000#32).extractLsb' 4 4 = 0#4 := by decide

theorem test_witness_EngineIdlesUnlessRunning :
    ∃ (s : State) (ts : List Turn) (a : Answer), s.turns = .engine a :: ts ∧ ¬ s.Running :=
  ⟨faulted (.engine good), [], good, rfl, fun h => by simp [State.Running, faulted] at h⟩

/-- A write, a DIO read, a column read and a delay. -/
theorem test_witness_SuccessfulMicroOperation :
    nextOp .lineInit (inside .scan 5#16 Drive.idle) = some (.write .row3 true) ∧
    nextOp (.command .setSegments) (inside .setSegments 56#16 Drive.idle) = some (.read .dio) ∧
    nextOp (.command .poll) (inside .poll 3#16 Drive.idle) = some (.read (.col 2)) ∧
    nextOp (.command .showDigits) (inside .showDigits 436#16 Drive.idle) = some .delay ∧
    jobOf 0x02#8 = some (.command .showDigits) ∧ jobOf 0x00#8 = some .lineInit ∧ good.fail = false := by
  exact ⟨rfl, rfl, rfl, rfl, rfl, rfl, rfl⟩

theorem test_witness_LineFaultEntry :
    ∃ (s : State) (ts : List Turn) (a : Answer) (j : Job), s.turns = .engine a :: ts ∧ s.Running ∧
      jobOf s.curOp = some j ∧ a.fail = true ∧ nextOp j s = some (.write .dio true) :=
  ⟨{ inside .showBlanked 435#16 Drive.idle with turns := [.engine bad] }, [], bad, .command .showBlanked, rfl,
    ⟨rfl, rfl⟩, rfl, rfl, rfl⟩

theorem test_witness_LineFaultEntry_read :
    ∃ (s : State) (ts : List Turn) (a : Answer) (j : Job), s.turns = .engine a :: ts ∧ s.Running ∧
      jobOf s.curOp = some j ∧ a.fail = true ∧ nextOp j s = some (.read (.col 0)) :=
  ⟨{ inside .scan 16#16 Drive.idle with turns := [.engine bad] }, [], bad, .command .scan, rfl, ⟨rfl, rfl⟩, rfl, rfl,
    rfl⟩

theorem test_witness_DelayAndCompletionCannotFail :
    ∃ (s : State) (ts : List Turn) (a : Answer) (j : Job), s.turns = .engine a :: ts ∧ s.Running ∧
      jobOf s.curOp = some j ∧ nextOp j s = none :=
  ⟨{ inside .poll 20#16 Drive.idle with turns := [.engine bad] }, [], bad, .command .poll, rfl, ⟨rfl, rfl⟩, rfl, rfl⟩

theorem test_witness_EngineRunsOnWithFreeAnswers : State.reset.turns = [] := rfl

theorem test_witness_AcknowledgmentIsIgnored :
    ∃ s t : State, engineTurn good s = .next t ∧ t.trace = s.trace ++ [.r .dio false] :=
  ⟨inside .setSegments 56#16 Drive.idle, _, rfl, rfl⟩

theorem test_witness_FamiliesTouchOwnLinesOnly :
    (∃ s t : State, s.Running ∧ engineTurn good s = .next t ∧ s.curOp = 0x11#8) ∧
    ∃ s t : State, s.Running ∧ engineTurn good s = .next t ∧ s.curOp = 0x03#8 :=
  ⟨⟨inside .poll 0#16 Drive.idle, _, ⟨rfl, rfl⟩, rfl, rfl⟩, inside .showBlanked 0#16 Drive.idle, _, ⟨rfl, rfl⟩, rfl,
    rfl⟩

theorem test_witness_display_commands_complete :
    State.reset.Ready ∧ operandLegal .showDigits State.reset.arg = true ∧
    operandLegal .showBlanked State.reset.arg = true ∧ 438 ≤ (List.replicate 438 good).length ∧
    NoFailure (List.replicate 438 good) ∧ (∀ a ∈ List.replicate 438 good, a.pull = true) ∧
    blank (dig4 State.reset.arg) = [10#4, 10#4, 10#4, 0#4] ∧ Receiver.unknown.AtRest :=
  ⟨⟨rfl, rfl⟩, by decide, by decide, List.length_replicate.ge, test_witness_good _,
    fun _ ha => by rw [List.eq_of_mem_replicate ha]; rfl, by decide, ⟨rfl, rfl, rfl, rfl⟩⟩

theorem test_witness_keypad_commands_complete :
    State.reset.Ready ∧ State.reset.drive.RowsHigh ∧ 21 ≤ (List.replicate 21 good).length ∧
    NoFailure (List.replicate 21 good) ∧ firstLow (List.replicate 21 good) = none ∧
    firstLow (List.replicate 21 { good with col := false }) = some 0 :=
  ⟨⟨rfl, rfl⟩, ⟨rfl, rfl, rfl, rfl⟩, by simp, test_witness_good _, by decide, by decide⟩

theorem test_witness_MatrixScanReturnsLeastKey :
    (7 : Key) ∈ [11, 7, 7] ∧ ∀ k' ∈ ([11, 7, 7] : List Key), 7 ≤ k' := by decide

theorem test_witness_ResetStepFromAnyState : ∃ (s : State) (ts : List Turn), s.turns = .reset :: ts :=
  ⟨faulted .reset, [], rfl⟩

theorem test_witness_successful_reset : 7 ≤ (List.replicate 7 good).length ∧ NoFailure (List.replicate 7 good) :=
  ⟨by simp, test_witness_good _⟩

/-- The first and the last write of the line initialization. -/
theorem test_witness_FailedLineInitIsAResetFault :
    NoFailure ([] : List Answer) ∧ bad.fail = true ∧ lineInitSeq[([] : List Answer).length]? = some (.write .clk true) ∧
    lineInitSeq[(List.replicate 5 good).length]? = some (.write .row3 true) :=
  ⟨fun _ ha => (List.not_mem_nil ha).elim, rfl, rfl, rfl⟩

theorem test_witness_StatusStaysLegal :
    ∃ s t : State, s.status.Legal ∧ step s = .next t ∧ t.status.fault = true :=
  ⟨{ inside .scan 0#16 Drive.idle with turns := [.engine bad] }, _,
    ⟨fun h => by simp [inside, Status.clear] at h, fun _ => ⟨rfl, rfl, rfl⟩, fun h => by simp [inside, Status.clear] at h⟩,
    rfl, rfl⟩

theorem test_witness_ResultsChangeOnlyAtCompletion :
    ∃ s t : State, step s = .next t ∧ (∀ ts, s.turns ≠ .reset :: ts) ∧ t.prev ≠ s.prev :=
  ⟨{ inside .debClear 0#16 Drive.idle with turns := [.engine good], prev := 0x14#32 }, _, rfl, by simp, by decide⟩

theorem test_witness_TraceGrowsByAtMostOneEvent :
    ∃ s t : State, step s = .next t ∧ t.trace = s.trace ++ [.w .row0 false] :=
  ⟨{ inside .scan 0#16 Drive.idle with turns := [.engine good] }, _, rfl, rfl⟩

/-- A state of the invariant in which a command is in progress, and a step of it. -/
theorem test_witness_invariant :
    ∃ s t : State, s.Inv ∧ s.Running ∧ step s = .next t ∧ 438 ≤ (List.replicate 438 good).length := by
  refine ⟨{ inside .debClear 0#16 Drive.idle with turns := [.engine good] }, _, ⟨?_, ?_, ?_, ?_⟩, ⟨rfl, rfl⟩, rfl,
    List.length_replicate.ge⟩
  · exact ⟨fun h => by simp [inside, Status.clear] at h, fun _ => ⟨rfl, rfl, rfl⟩,
      fun h => by simp [inside, Status.clear] at h⟩
  · exact ⟨⟨none, rfl⟩, ⟨none, rfl⟩, .inl rfl⟩
  · intro _; rfl
  · intro _; exact ⟨.command .debClear, rfl, rfl, rfl⟩

end Sys2Proof.Tests
end

namespace Sys2Proof.Machine

/-! ### Where no turn waits -/

theorem step_free {s : State} (h : s.turns = []) : step s = freeRun s := by
  simp [step, h]

/-- Settles O34: with an empty list the step is `freeRun`, whose answer draws the oracles at the draw counter. -/
theorem engineRunsOnWithFreeAnswers : Obligations.EngineRunsOnWithFreeAnswers := by
  intro s hs
  rw [step_free hs, freeRun, freeAnswer]

/-! ### A micro-operation that succeeds -/

/-- The engine reads its next micro-operation in the sequence, not in the list of turns. -/
@[simp] theorem nextOp_withTurns (j : Job) (ts : List Turn) (s : State) :
    nextOp j (s.withTurns ts) = nextOp j s := rfl

/-- The step of a running engine that has a micro-operation to perform. -/
theorem step_perform {s : State} {ts : List Turn} {a : Answer} {j : Job} {m : MicroOp}
    (hts : s.turns = .engine a :: ts) (hr : s.Running) (hj : jobOf s.curOp = some j) (hm : nextOp j s = some m) :
    step s = .next (perform j m a (s.withTurns ts)) := by
  have hr' : (s.withTurns ts).Running := hr
  rw [step_engine hts, engineTurn_running hr']
  exact engineStep_perform hj ((nextOp_withTurns j ts s).trans hm)

/-- R40: the event a successful micro-operation appends, made with the lines in drive states `d`. -/
def successEvent (m : MicroOp) (a : Answer) (d : Drive) : Event :=
  match m with
  | .write l v => .w l v
  | .read l => .r l (lineLevel d a l)
  | .delay => .d

/-- R13, R110: the state a successful micro-operation leaves, but for what a scan notes of it. -/
def State.performed (m : MicroOp) (a : Answer) (s : State) : State :=
  { s with
    seqIdx := s.seqIdx + 1#16
    drive := s.drive.after [m]
    trace := s.trace ++ [successEvent m a s.drive] }

/-- The cause `c`, which a failing write would record, has no part in it. -/
theorem microStep_success (c : Cause) (m : MicroOp) {a : Answer} (s : State) (ha : a.fail = false) :
    microStep c m a s = s.performed m a := by
  cases m with
  | write l v => simp only [microStep, lineWrite, ha]; rfl
  | read l => simp only [microStep, lineRead, ha]; rfl
  | delay => rfl

/-- R173: a note of the scan changes its result and its position only. -/
theorem scanNote_eq (m : MicroOp) (a : Answer) (s : State) :
    ∃ k hit, scanNote m a s = { s with kTmp := k, scanHit := hit } := by
  unfold scanNote
  split <;> exact ⟨_, _, rfl⟩

theorem scanStep_success (m : MicroOp) {a : Answer} (s : State) (ha : a.fail = false) :
    ∃ k hit, scanStep m a s = { s.performed m a with kTmp := k, scanHit := hit } := by
  obtain ⟨k, hit, hn⟩ := scanNote_eq m a s
  exact ⟨k, hit, by simp [scanStep, ha, hn, microStep_success, State.performed]⟩

/-- R110: every job performs a micro-operation alike; only SCAN and POLL may change the scan's own fields. -/
theorem perform_success (j : Job) (m : MicroOp) {a : Answer} (s : State) (ha : a.fail = false) :
    ∃ k hit, perform j m a s = { s.performed m a with kTmp := k, scanHit := hit } ∧
      (j ≠ .command .scan → j ≠ .command .poll → k = s.kTmp ∧ hit = s.scanHit) := by
  rcases j with _ | i
  · exact ⟨_, _, microStep_success _ m s ha, fun _ _ => ⟨rfl, rfl⟩⟩
  · cases i
    case scan | poll =>
      obtain ⟨k, hit, h⟩ := scanStep_success m s ha
      exact ⟨k, hit, h, fun _ _ => by contradiction⟩
    all_goals exact ⟨_, _, microStep_success _ m s ha, fun _ _ => ⟨rfl, rfl⟩⟩

/-- Settles O31: the step performs the micro-operation, whose effect `perform_success` gives for every job; the event
and the line then follow by the kind of micro-operation. -/
theorem successfulMicroOperation : Obligations.SuccessfulMicroOperation := by
  intro s ts a j m hts hr hj hm ha
  obtain ⟨k, hit, hp, hscan⟩ := perform_success j m (s.withTurns ts) ha
  refine ⟨k, hit, s.drive.after [m], successEvent m a s.drive, ?_, ?_, hscan⟩
  · rw [step_perform hts hr hj hm, hp]
    rfl
  · cases m with
    | write l v => exact ⟨rfl, rfl⟩
    | read l => cases l <;> exact ⟨rfl, rfl⟩
    | delay => exact ⟨rfl, rfl⟩

end Sys2Proof.Machine

namespace Sys2Proof.Machine

/-! ### The words the host reads -/

/-- A field of a word is given by its bits. -/
theorem extractLsb'_eq_of_bits {w start len : Nat} {x : BitVec w} {f : BitVec len}
    (h : ∀ i < len, x.getLsbD (start + i) = f.getLsbD i) : x.extractLsb' start len = f :=
  BitVec.eq_of_getLsbD_eq fun i hi => by rw [BitVec.getLsbD_extractLsb', h i hi, decide_eq_true hi, Bool.true_and]

/-- R25: the four flags of `STATUS`, bit 3 reserved. -/
theorem statusWord_flags (t : Status) {i : Nat} (h : i < 4) :
    t.word.getLsbD i = [t.busy, t.fault, t.ovr, false].getD i false := by
  rw [getLsbD_statusWord]
  interval_cases i <;> rfl

theorem statusWord_cause (t : Status) {i : Nat} (h : i < 4) : t.word.getLsbD (4 + i) = t.cause.code.getLsbD i := by
  rw [getLsbD_statusWord, Nat.add_sub_cancel_left]
  iterate 4 rw [if_neg (by omega)]
  exact if_pos (by omega)

theorem statusWord_faultOp (t : Status) {i : Nat} (h : i < 8) : t.word.getLsbD (8 + i) = t.faultOp.getLsbD i := by
  rw [getLsbD_statusWord, Nat.add_sub_cancel_left]
  iterate 5 rw [if_neg (by omega)]
  exact if_pos (by omega)

theorem statusWord_faultStep (t : Status) (i : Nat) : t.word.getLsbD (16 + i) = t.faultStep.getLsbD i := by
  rw [getLsbD_statusWord, Nat.add_sub_cancel_left]
  iterate 6 rw [if_neg (by omega)]

/-- Settles O18: each field of the word is its bits. -/
theorem statusWordFields : Obligations.StatusWordFields := by
  refine ⟨⟨rfl, rfl, rfl, rfl, rfl, rfl⟩, fun t => ?_⟩
  have hflag (n : Nat) (hn : n < 4) :
      t.word.extractLsb' n 1 = BitVec.ofBool ([t.busy, t.fault, t.ovr, false].getD n false) :=
    extractLsb'_eq_of_bits fun i hi => by
      obtain rfl : i = 0 := by omega
      exact (statusWord_flags t hn).trans (BitVec.getLsbD_ofBool _ 0).symm
  exact ⟨hflag 0 (by decide), hflag 1 (by decide), hflag 2 (by decide), hflag 3 (by decide),
    extractLsb'_eq_of_bits fun _ => statusWord_cause t, extractLsb'_eq_of_bits fun _ => statusWord_faultOp t,
    extractLsb'_eq_of_bits fun i _ => statusWord_faultStep t i⟩

/-- R29: the bits of `LINES`, bit 0 first. -/
theorem getLsbD_driveWord (d : Drive) (i : Nat) :
    d.word.getLsbD i = [d.clk, d.dio, false, false, d.row0, d.row1, d.row2, d.row3].getD i false := by
  unfold Drive.word
  rw [BitVec.getLsbD_setWidth]
  by_cases hi : i < 8
  · erw [BitVec.getLsbD_append, BitVec.getLsbD_append, BitVec.getLsbD_append, BitVec.getLsbD_append,
      BitVec.getLsbD_append, BitVec.getLsbD_append]
    interval_cases i <;> simp
  · have hge : 8 ≤ i := by omega
    rw [BitVec.getLsbD_of_ge _ _ hge, Bool.and_false, List.getD_eq_default _ _ hge]

/-- R29: the bits 2 and 3 and those above 7 are reserved. -/
theorem driveWord_reserved (d : Drive) {i : Nat} (h : i = 2 ∨ i = 3 ∨ 8 ≤ i) : d.word.getLsbD i = false := by
  rw [getLsbD_driveWord]
  rcases h with rfl | rfl | h
  · rfl
  · rfl
  · exact List.getD_eq_default _ _ h

/-- Settles O19: `getLsbD_driveWord` gives every bit of the word. -/
theorem linesWordFields : Obligations.LinesWordFields := by
  intro d
  have hreserved (start len : Nat) (h : ∀ i < len, start + i = 2 ∨ start + i = 3 ∨ 8 ≤ start + i) :
      d.word.extractLsb' start len = 0#len :=
    extractLsb'_eq_of_bits fun i hi => by rw [driveWord_reserved d (h i hi), BitVec.getLsbD_zero]
  exact ⟨getLsbD_driveWord d 0, getLsbD_driveWord d 1, hreserved 2 2 (by omega), getLsbD_driveWord d 4,
    getLsbD_driveWord d 5, getLsbD_driveWord d 6, getLsbD_driveWord d 7, hreserved 8 24 (by omega)⟩

/-- Settles O52: every value is the one `State.reset` is written with (R43). -/
theorem resetRegisterValues : Obligations.ResetRegisterValues :=
  ⟨rfl, rfl, rfl, rfl, rfl, rfl, rfl, rfl, rfl, rfl⟩

/-! ### The line initialization -/

/-- R33, R34, R241: whatever the lines were, the line initialization leaves them idle. -/
theorem after_lineInitSeq (d : Drive) : d.after lineInitSeq = Drive.idle := rfl

/-- R241: the events of a line initialization that succeeds, whatever the answers to its six writes. -/
theorem lineInit_events {answers : List Answer} (h : 6 ≤ answers.length) :
    List.zipWith displayEvent lineInitSeq answers =
      [.w .clk true, .w .dio true, .w .row0 true, .w .row1 true, .w .row2 true, .w .row3 true] :=
  match answers, h with
  | _ :: _ :: _ :: _ :: _ :: _ :: _, _ => rfl

/-- Settles O49: the engine turns after the reset step run `lineInitSeq` to its end (`engineRun_follows`). -/
theorem successfulResetReachesResetState : Obligations.SuccessfulResetReachesResetState := by
  intro s answers hlen hnf
  rw [engineRun_follows (follows_lineInit 0#32) (by decide) lineInitSeq [] (resetStep s) answers rfl rfl rfl
    ⟨rfl, rfl⟩ rfl hlen hnf trivial, lineInit_events (by omega), after_lineInitSeq]
  simp [resetStep, Status.clear, Drive.idle, lineInitSeq]

/-! ### What a failing and a completing step leave -/

/-- R207: a line fault with its record, whatever the cause, the drive states and the event. -/
def State.lineFaulted (c : Cause) (d : Drive) (e : Event) (s : State) : State :=
  { s.raiseFault c s.curOp s.seqIdx with drive := d, trace := s.trace ++ [e] }

@[simp] theorem lineFaulted_fault (c : Cause) (d : Drive) (e : Event) (s : State) :
    (s.lineFaulted c d e).status.fault = true := rfl

theorem microStep_fail {c : Cause} (hc : c ≠ .none) {m : MicroOp} (hm : m ≠ .delay) {a : Answer}
    (ha : a.fail = true) (s : State) :
    ∃ c' d e, c' ≠ Cause.none ∧ microStep c m a s = s.lineFaulted c' d e := by
  cases m with
  | write l v => exact ⟨c, s.drive.set l a.held, .wFail l, hc, by simp [microStep, lineWrite, ha]; rfl⟩
  | read l => exact ⟨.ioRead, s.drive, .rFail l, by decide, by simp [microStep, lineRead, ha]; rfl⟩
  | delay => exact absurd rfl hm

/-- R206: a micro-operation succeeds, as every delay does, or is a line fault. -/
theorem microStep_outcome {c : Cause} (hc : c ≠ .none) (m : MicroOp) (a : Answer) (s : State) :
    microStep c m a s = s.performed m a ∨
      ∃ c' d e, c' ≠ Cause.none ∧ microStep c m a s = s.lineFaulted c' d e := by
  by_cases hm : m = .delay
  · subst hm
    exact .inl rfl
  · cases ha : a.fail with
    | false => exact .inl (microStep_success c m s ha)
    | true => exact .inr (microStep_fail hc hm ha s)

/-- R173: a micro-operation of a scan succeeds with its note, or is a line fault. -/
theorem scanStep_outcome (m : MicroOp) (a : Answer) (s : State) :
    scanStep m a s = (scanNote m a s).performed m a ∨
      ∃ c d e, c ≠ Cause.none ∧ scanStep m a s = s.lineFaulted c d e := by
  by_cases hm : m = .delay
  · subst hm
    exact .inl (by simp only [scanStep, scanNote, ite_self]; rfl)
  · cases ha : a.fail with
    | false => exact .inl (by simp [scanStep, ha, microStep_success])
    | true => exact .inr (by simpa [scanStep, ha] using microStep_fail (by decide) hm ha s)

theorem microStep_of_noFault {c : Cause} (hc : c ≠ .none) {m : MicroOp} {a : Answer} {s : State}
    (hf : (microStep c m a s).status.fault = false) : microStep c m a s = s.performed m a :=
  (microStep_outcome hc m a s).resolve_right fun ⟨_, _, _, _, hp⟩ => by simp [hp] at hf

theorem scanStep_of_noFault {m : MicroOp} {a : Answer} {s : State} (hf : (scanStep m a s).status.fault = false) :
    scanStep m a s = (scanNote m a s).performed m a :=
  (scanStep_outcome m a s).resolve_right fun ⟨_, _, _, _, hp⟩ => by simp [hp] at hf

/-- R110, R207: a micro-operation of any job succeeds or is a line fault. -/
theorem perform_outcome (j : Job) (m : MicroOp) (a : Answer) (s : State) :
    (∃ k hit, perform j m a s = { s.performed m a with kTmp := k, scanHit := hit }) ∨
      ∃ c d e, c ≠ Cause.none ∧ perform j m a s = s.lineFaulted c d e := by
  rcases j with _ | i
  · exact (microStep_outcome (by decide) m a s).imp_left fun h => ⟨_, _, h⟩
  · cases i
    case scan | poll =>
      refine (scanStep_outcome m a s).imp_left fun h => ?_
      obtain ⟨k, hit, hn⟩ := scanNote_eq m a s
      exact ⟨k, hit, h.trans (by rw [hn]; rfl)⟩
    all_goals exact (microStep_outcome (by decide) m a s).imp_left fun h => ⟨_, _, h⟩

theorem perform_of_noFault {j : Job} {m : MicroOp} {a : Answer} {s : State}
    (hf : (perform j m a s).status.fault = false) :
    ∃ k hit, perform j m a s = { s.performed m a with kTmp := k, scanHit := hit } :=
  (perform_outcome j m a s).resolve_right fun ⟨_, _, _, _, hp⟩ => by simp [hp] at hf

@[simp] theorem complete_status (j : Job) (s : State) :
    (complete j s).status = { s.status with busy := false } := by
  rcases j with _ | i
  · rfl
  · cases i <;> rfl

@[simp] theorem complete_drive (j : Job) (s : State) : (complete j s).drive = s.drive := by
  rcases j with _ | i
  · rfl
  · cases i <;> rfl

@[simp] theorem complete_trace (j : Job) (s : State) : (complete j s).trace = s.trace := by
  rcases j with _ | i
  · rfl
  · cases i <;> rfl

/-- R111: the completion step frees the block for the next command. -/
theorem complete_ready {s : State} (hf : s.status.fault = false) (j : Job) : (complete j s).Ready := by
  rw [State.Ready, complete_status]
  exact ⟨rfl, hf⟩

/-! ### The trace -/

theorem writeCmd_trace_drive {w : Word} {s t : State} (h : writeCmd w s = .next t) :
    t.trace = s.trace ∧ t.drive = s.drive := by
  rcases writeCmd_cases h with ⟨_, rfl⟩ | ⟨_, rfl⟩ | ⟨_, i, _, _, rfl⟩ | ⟨_, c, op, _, rfl⟩ <;>
    exact ⟨rfl, rfl⟩

/-- R31, R34, R40: a host access adds no event and moves no line. -/
theorem hostAccess_trace_drive {a : Access} {s t : State} (h : hostAccess a s = .next t) :
    t.trace = s.trace ∧ t.drive = s.drive := by
  rcases hostAccess_cases h with ⟨r, rfl⟩ | ⟨v, rfl⟩ | rfl | ⟨w, hw⟩
  · exact ⟨rfl, rfl⟩
  · exact ⟨rfl, rfl⟩
  · exact ⟨rfl, rfl⟩
  · exact writeCmd_trace_drive hw

theorem perform_trace (j : Job) (m : MicroOp) (a : Answer) (s : State) :
    ∃ e, (perform j m a s).trace = s.trace ++ [e] := by
  rcases perform_outcome j m a s with ⟨k, hit, h⟩ | ⟨c, d, e, _, h⟩ <;> rw [h] <;> exact ⟨_, rfl⟩

/-- R40: one event for a micro-operation, none for a completion step or a turn without a step. -/
theorem engineTurn_trace {a : Answer} {s t : State} (h : engineTurn a s = .next t) :
    t.trace = s.trace ∨ ∃ e, t.trace = s.trace ++ [e] := by
  rcases engineTurn_cases h with ⟨_, hstep⟩ | ⟨_, rfl⟩
  · obtain ⟨j, _, ⟨m, _, rfl⟩ | ⟨_, rfl⟩⟩ := engineStep_cases hstep
    · exact .inr (perform_trace j m a s)
    · exact .inl (complete_trace j s)
  · exact .inl rfl

/-- Settles O56: the host's access adds no event, reset its own, and an engine turn at most one. -/
theorem traceGrowsByAtMostOneEvent : Obligations.TraceGrowsByAtMostOneEvent := by
  intro s t h
  refine ⟨?_, fun a ts hts => hostAccess_trace_drive (s := s.withTurns ts) (step_host hts ▸ h)⟩
  rcases step_cases h with ⟨ts, _, rfl⟩ | ⟨a, ts, _, ha⟩ | ⟨a, ts, _, he⟩ | ⟨_, he⟩
  · exact .inr ⟨.reset, rfl⟩
  · exact .inl (hostAccess_trace_drive ha).1
  · exact engineTurn_trace (s := s.withTurns ts) he
  · exact engineTurn_trace (s := { s with drawn := s.drawn + 1 }) he

/-! ### Properties that every step keeps -/

/-- `P` is kept by every operation a step is made of, each in the states in which a step makes it. -/
structure KeptByOperations (P : State → Prop) : Prop where
  port : ∀ s v rs ts n, P s → P { s with arg := v, reads := rs, turns := ts, drawn := n }
  reset : ∀ s, P s → P (resetStep s)
  overrunning : ∀ s, P s → P (overrun s)
  accepting : ∀ s i, s.Ready → operandLegal i s.arg = true → P s → P (accept i.opcode s)
  dispatchFaulting : ∀ s c op, c ≠ .none → P s → P (dispatchFault c op s)
  performing : ∀ s j m a, s.Running → jobOf s.curOp = some j → nextOp j s = some m → P s → P (perform j m a s)
  completing : ∀ s j, s.Running → jobOf s.curOp = some j → nextOp j s = none → P s → P (complete j s)

namespace KeptByOperations

variable {P : State → Prop} (k : KeptByOperations P)
include k

theorem of_writeCmd {w : Word} {s t : State} (hs : P s) (h : writeCmd w s = .next t) : P t := by
  rcases writeCmd_cases h with ⟨_, rfl⟩ | ⟨_, rfl⟩ | ⟨hr, i, _, hl, rfl⟩ | ⟨_, c, op, hc, rfl⟩
  · exact hs
  · exact k.overrunning s hs
  · exact k.accepting s i hr hl hs
  · exact k.dispatchFaulting s c op hc hs

theorem of_hostAccess {a : Access} {s t : State} (hs : P s) (h : hostAccess a s = .next t) : P t := by
  rcases hostAccess_cases h with ⟨r, rfl⟩ | ⟨v, rfl⟩ | rfl | ⟨w, hw⟩
  · exact k.port s s.arg (s.reads ++ [readReg r s]) s.turns s.drawn hs
  · exact k.port s v s.reads s.turns s.drawn hs
  · exact hs
  · exact k.of_writeCmd hs hw

theorem of_engineTurn {a : Answer} {s t : State} (hs : P s) (h : engineTurn a s = .next t) : P t := by
  rcases engineTurn_cases h with ⟨hr, hstep⟩ | ⟨_, rfl⟩
  · obtain ⟨j, hj, ⟨m, hm, rfl⟩ | ⟨hn, rfl⟩⟩ := engineStep_cases hstep
    · exact k.performing s j m a hr hj hm hs
    · exact k.completing s j hr hj hn hs
  · exact hs

theorem of_step {s t : State} (hs : P s) (h : step s = .next t) : P t := by
  have htaken (ts : List Turn) : P (s.withTurns ts) := k.port s s.arg s.reads ts s.drawn hs
  rcases step_cases h with ⟨ts, _, rfl⟩ | ⟨a, ts, _, ha⟩ | ⟨a, ts, _, he⟩ | ⟨_, he⟩
  · exact k.reset _ (htaken ts)
  · exact k.of_hostAccess (htaken ts) ha
  · exact k.of_engineTurn (htaken ts) he
  · exact k.of_engineTurn (k.port s s.arg s.reads s.turns (s.drawn + 1) hs) he

end KeptByOperations

/-! ### The status register -/

/-- R25: without a fault a status is legal when its fault record is 0, whatever `BUSY` and `OVR`. -/
theorem Status.legal_of_noFault {t : Status} (hf : t.fault = false)
    (hrec : t.cause = .none ∧ t.faultOp = 0#8 ∧ t.faultStep = 0#16) : t.Legal :=
  ⟨fun h => by simp [hf] at h, fun _ => hrec, fun h => by simp [hf] at h⟩

theorem Status.legal_setBusy {t : Status} (h : t.Legal) (hf : t.fault = false) (b : Bool) :
    Status.Legal { t with busy := b } := by
  obtain ⟨_, hrec, _⟩ := h
  exact legal_of_noFault hf (hrec hf)

theorem Status.legal_raiseFault {c : Cause} (hc : c ≠ .none) (op : Byte) (n : BitVec 16) (s : State) :
    (s.raiseFault c op n).status.Legal :=
  ⟨fun _ => rfl, fun h => absurd h (by simp), fun _ => hc⟩

theorem perform_status_legal {s : State} (h : s.status.Legal) (j : Job) (m : MicroOp) (a : Answer) :
    (perform j m a s).status.Legal := by
  rcases perform_outcome j m a s with ⟨k, hit, hp⟩ | ⟨c, d, e, hc, hp⟩ <;> rw [hp]
  · exact h
  · exact Status.legal_raiseFault hc s.curOp s.seqIdx s

theorem complete_status_legal {s : State} (h : s.status.Legal) (hf : s.status.fault = false) (j : Job) :
    (complete j s).status.Legal := by
  rw [complete_status]
  exact Status.legal_setBusy h hf false

/-- R25: a legal status is kept by every operation. -/
theorem legal_keptByOperations : KeptByOperations fun s => s.status.Legal where
  port _ _ _ _ _ h := h
  reset _ _ := Status.legal_of_noFault rfl ⟨rfl, rfl, rfl⟩
  overrunning _ h := h
  accepting _ _ hr _ h := Status.legal_setBusy h hr.2 true
  dispatchFaulting s _ op hc _ := Status.legal_raiseFault hc op 0#16 s
  performing _ j m a _ _ _ h := perform_status_legal h j m a
  completing _ j hr _ _ h := complete_status_legal h hr.2 j

/-- Settles O54: every operation keeps the status legal. -/
theorem statusStaysLegal : Obligations.StatusStaysLegal :=
  fun _ _ hs h => legal_keptByOperations.of_step hs h

/-! ### The lines after a display sequence (R120 to R133) -/

theorem after_sendBit (d : Drive) (v : Bool) : d.after (sendBit v) = { d with clk := true, dio := v } := rfl

theorem after_ackClock (d : Drive) : d.after ackClock = { d with clk := false, dio := false } := rfl

theorem after_stopSeq (d : Drive) : d.after stopSeq = { d with clk := true, dio := true } := rfl

/-- R120: bits move the two display lines only. -/
theorem after_bits (d : Drive) (bits : List Bool) :
    ∃ c v, d.after (bits.flatMap sendBit) = { d with clk := c, dio := v } := by
  induction bits generalizing d with
  | nil => exact ⟨d.clk, d.dio, rfl⟩
  | cons b bits ih =>
    rw [List.flatMap_cons, after_append, after_sendBit]
    exact ih _

/-- R123: a byte leaves the two display lines low. -/
theorem after_sendByte (d : Drive) (b : Byte) : d.after (sendByte b) = { d with clk := false, dio := false } := by
  obtain ⟨c, v, h⟩ := after_bits d (wireBits b)
  rw [sendByte, after_append, h, after_ackClock]

theorem after_bytes (d : Drive) (bytes : List Byte) :
    ∃ c v, d.after (bytes.flatMap sendByte) = { d with clk := c, dio := v } := by
  induction bytes generalizing d with
  | nil => exact ⟨d.clk, d.dio, rfl⟩
  | cons b bytes ih =>
    rw [List.flatMap_cons, after_append, after_sendByte]
    exact ih _

/-- R122, R133: a frame of any bytes ends with the display bus idle and the rows as they were. -/
theorem after_frame (d : Drive) (bytes : List Byte) : d.after (frame bytes) = { d with clk := true, dio := true } := by
  obtain ⟨c, v, h⟩ := after_bytes (d.after startSeq) bytes
  rw [frame, after_append, after_append, h, after_stopSeq]
  rfl

theorem after_updateSeq (d : Drive) (bytes : List Byte) :
    d.after (updateSeq bytes) = { d with clk := true, dio := true } := by
  rw [updateSeq, after_append, after_append, after_frame, after_frame, after_frame]

/-! ### The length of a display sequence (R134) -/

theorem length_sendByte (b : Byte) : (sendByte b).length = 59 := rfl

theorem length_bytes (bytes : List Byte) : (bytes.flatMap sendByte).length = 59 * bytes.length := by
  simp [List.length_flatMap, length_sendByte, Nat.mul_comm]

theorem length_frame (bytes : List Byte) : (frame bytes).length = 59 * bytes.length + 8 := by
  simp only [frame, List.length_append, length_bytes]
  rw [show startSeq.length = 2 from rfl, show stopSeq.length = 6 from rfl]
  omega

theorem length_updateSeq {bytes : List Byte} (h : bytes.length = 4) : (updateSeq bytes).length = 437 := by
  simp [updateSeq, length_frame, h]

theorem length_blank (ds : List Nibble) : (blank ds).length = ds.length := by
  induction ds using blank.induct with
  | case1 => rfl
  | case2 d => rfl
  | case3 ds hds ih => simp [blank, ih]
  | case4 d ds hds h => simp [blank, h]

/-- R131: a display command's sequence is the update with its four data bytes. -/
theorem displaySeq_eq_updateSeq {i : Instr} {v : Word} {ops : List MicroOp} (h : displaySeq i v = some ops) :
    ∃ bytes, bytes.length = 4 ∧ ops = updateSeq bytes := by
  cases i <;> cases h
  · exact ⟨setSegmentsBytes v, rfl, rfl⟩
  · exact ⟨showDigitsBytes Config.seg v, rfl, rfl⟩
  · exact ⟨showBlankedBytes Config.seg v, by simp [showBlankedBytes, encDigits, length_blank, dig4], rfl⟩

theorem length_displaySeq {i : Instr} {v : Word} {ops : List MicroOp} (h : displaySeq i v = some ops) :
    ops.length = 437 := by
  obtain ⟨bytes, hb, rfl⟩ := displaySeq_eq_updateSeq h
  exact length_updateSeq hb

/-- R133: a display command leaves idle lines idle. -/
theorem after_displaySeq {i : Instr} {v : Word} {ops : List MicroOp} (h : displaySeq i v = some ops) :
    Drive.idle.after ops = Drive.idle := by
  obtain ⟨bytes, _, rfl⟩ := displaySeq_eq_updateSeq h
  exact after_updateSeq _ _

/-! ### Inside a fixed sequence -/

theorem toNat_succ {i : BitVec 16} {n : Nat} (hi : i.toNat < n) (hn : n < 65536) : (i + 1#16).toNat = i.toNat + 1 := by
  rw [BitVec.toNat_add, BitVec.toNat_ofNat]
  omega

/-- The engine is at a position of `ops`, or at its end, and its micro-operations so far have moved the lines from
`d`. -/
def State.SeqAt (d : Drive) (ops : List MicroOp) (s : State) : Prop :=
  s.seqIdx.toNat ≤ ops.length ∧ s.drive = d.after (ops.take s.seqIdx.toNat)

theorem State.SeqAt.performed {d : Drive} {ops : List MicroOp} {m : MicroOp} {s : State} (h : s.SeqAt d ops)
    (hlen : ops.length < 65536) (hm : ops[s.seqIdx.toNat]? = some m) (a : Answer) : (s.performed m a).SeqAt d ops := by
  obtain ⟨_, hd⟩ := h
  obtain ⟨hlt, _⟩ := List.getElem?_eq_some_iff.mp hm
  have hi : (s.performed m a).seqIdx.toNat = s.seqIdx.toNat + 1 := toNat_succ hlt hlen
  refine ⟨by omega, ?_⟩
  rw [hi, after_take_succ d ops _ m hm, ← hd]
  rfl

theorem State.SeqAt.drive_of_end {d : Drive} {ops : List MicroOp} {s : State} (h : s.SeqAt d ops)
    (hn : ops[s.seqIdx.toNat]? = none) : s.drive = d.after ops := by
  rw [h.2, List.take_of_length_le (List.getElem?_eq_none_iff.mp hn)]

theorem jobAt_lineInit {s : State} : s.JobAt .lineInit ↔ ∃ d, s.SeqAt d lineInitSeq :=
  exists_and_left.symm

/-! What the three display commands have in common, each with its `displaySeq`. -/

section
variable {i : Instr} {s : State} {ops : List MicroOp} (h : displaySeq i s.argL = some ops)
include h

theorem jobAt_display : s.JobAt (.command i) ↔ operandLegal i s.argL = true ∧ s.SeqAt Drive.idle ops := by
  have hlen := length_displaySeq h
  rw [State.SeqAt, hlen]
  cases i <;> cases h
  · exact (and_iff_right rfl).symm
  · rfl
  · rfl

theorem nextOp_display : nextOp (.command i) s = ops[s.seqIdx.toNat]? := by
  cases i <;> cases h <;> rfl

theorem perform_display (m : MicroOp) (a : Answer) : perform (.command i) m a s = microStep .ioDrive m a s := by
  cases i <;> cases h <;> rfl

theorem display_jobAt_perform {m : MicroOp} {a : Answer} (hat : s.JobAt (.command i))
    (hm : nextOp (.command i) s = some m) (hf : (perform (.command i) m a s).status.fault = false) :
    (perform (.command i) m a s).JobAt (.command i) := by
  obtain ⟨hl, hseq⟩ := (jobAt_display h).mp hat
  have hlen := length_displaySeq h
  rw [nextOp_display h] at hm
  rw [perform_display h] at hf ⊢
  rw [microStep_of_noFault (by decide) hf]
  exact (jobAt_display (s := s.performed m a) h).mpr ⟨hl, hseq.performed (by omega) hm a⟩

theorem display_drive_of_end (hat : s.JobAt (.command i)) (hn : nextOp (.command i) s = none) :
    s.drive = Drive.idle := by
  obtain ⟨_, hseq⟩ := (jobAt_display h).mp hat
  rw [hseq.drive_of_end (nextOp_display h ▸ hn), after_displaySeq h]

end

/-! ### Inside a scan (R173 to R176) -/

theorem scanOpAt_eq_none {n : Nat} {hit : Option Key} (h : scanOpAt n hit = none) : 20 ≤ n := by
  unfold scanOpAt at h
  split_ifs at h
  assumption

/-- R173: what a scan does at index `n`. -/
theorem scanOpAt_cases {n : Nat} {hit : Option Key} {m : MicroOp} (h : scanOpAt n hit = some m) :
    n < 20 ∧
      ((n % 5 = 0 ∧ m = .write (rowLine (scanRow n)) false) ∨
       (n % 5 ≠ 0 ∧ (hit.isSome ∨ n % 5 = 4) ∧ m = .write (rowLine (scanRow n)) true) ∨
       (n % 5 ≠ 0 ∧ n % 5 ≠ 4 ∧ m = .read (.col (Fin.ofNat 3 (n % 5 - 1))))) := by
  unfold scanOpAt at h
  split_ifs at h with h20 h0 hup <;> cases h
  · exact ⟨by omega, .inl ⟨h0, rfl⟩⟩
  · exact ⟨by omega, .inr (.inl ⟨h0, hup, rfl⟩)⟩
  · exact ⟨by omega, .inr (.inr ⟨h0, fun h4 => hup (.inr h4), rfl⟩)⟩

theorem scanRow_succ {n : Nat} (h : (n + 1) % 5 ≠ 0) : scanRow (n + 1) = scanRow n := by
  unfold scanRow
  rw [show (n + 1) / 5 = n / 5 by omega]

theorem scanRow_val {n : Nat} (hn : n < 20) : (scanRow n).val = n / 5 := by
  simp only [scanRow, Fin.val_ofNat]
  omega

/-- R176: restoring the one row driven low leaves the lines idle. -/
theorem idle_restore (l : OutLine) : (Drive.idle.set l false).set l true = Drive.idle := by
  cases l <;> rfl

theorem scanAt_searching {s : State} (hk : s.kTmp = none) :
    s.ScanAt ↔
      s.seqIdx.toNat ≤ 20 ∧
      s.drive = (if s.seqIdx.toNat % 5 = 0 then Drive.idle
        else Drive.idle.set (rowLine (scanRow s.seqIdx.toNat)) false) ∧
      ∀ k, s.scanHit = some k →
        2 ≤ s.seqIdx.toNat % 5 ∧ k.val = 3 * (s.seqIdx.toNat / 5) + (s.seqIdx.toNat % 5 - 2) := by
  simp only [State.ScanAt, hk]

theorem scanAt_found {s : State} {k : Key} (hk : s.kTmp = some k) :
    s.ScanAt ↔ s.drive = Drive.idle ∧ s.scanHit = none ∧ s.seqIdx.toNat = 5 * (k.val / 3) + k.val % 3 + 3 := by
  simp only [State.ScanAt, hk]

theorem scanNext_eq_some {s : State} {m : MicroOp} (h : scanNext s = some m) :
    s.kTmp = none ∧ scanOpAt s.seqIdx.toNat s.scanHit = some m := by
  unfold scanNext at h
  split_ifs at h with hk
  exact ⟨by simpa using hk, h⟩

section
variable {s : State} (h : s.ScanAt) (hk : s.kTmp = none) (hn : s.seqIdx.toNat < 20)
include h hk hn

/-- R173: position 0 of a row drives it low. -/
theorem scanAt_driveRow (h0 : s.seqIdx.toNat % 5 = 0) (a : Answer) :
    (s.performed (.write (rowLine (scanRow s.seqIdx.toNat)) false) a).ScanAt := by
  obtain ⟨_, hd, hhit⟩ := (scanAt_searching hk).mp h
  have hi : (s.seqIdx + 1#16).toNat = s.seqIdx.toNat + 1 := toNat_succ hn (by omega)
  have hnext : (s.seqIdx.toNat + 1) % 5 ≠ 0 := by omega
  rw [scanAt_searching (s := s.performed _ a) hk]
  simp only [State.performed, hi]
  refine ⟨by omega, ?_, fun k hk' => ?_⟩
  · rw [if_neg hnext, scanRow_succ hnext, hd, if_pos h0]
    rfl
  · have := hhit k hk'
    omega

/-- R173, R176: the write that restores a row ends the scan if a column of it has read low. -/
theorem scanAt_restoreRow (h0 : s.seqIdx.toNat % 5 ≠ 0) (hup : s.scanHit.isSome ∨ s.seqIdx.toNat % 5 = 4)
    (a : Answer) :
    (({ s with kTmp := s.scanHit, scanHit := none } : State).performed
      (.write (rowLine (scanRow s.seqIdx.toNat)) true) a).ScanAt := by
  obtain ⟨_, hd, hhit⟩ := (scanAt_searching hk).mp h
  have hi : (s.seqIdx + 1#16).toNat = s.seqIdx.toNat + 1 := toNat_succ hn (by omega)
  have hidle : s.drive.after [.write (rowLine (scanRow s.seqIdx.toNat)) true] = Drive.idle := by
    rw [hd, if_neg h0]
    exact idle_restore _
  cases hfound : s.scanHit with
  | none =>
    have h4 : s.seqIdx.toNat % 5 = 4 := by simpa [hfound] using hup
    rw [scanAt_searching rfl]
    simp only [State.performed, hi]
    exact ⟨by omega, by rw [if_pos (by omega), hidle], fun _ h => nomatch h⟩
  | some k =>
    obtain ⟨h2, hval⟩ := hhit k hfound
    rw [scanAt_found rfl]
    simp only [State.performed, hi]
    exact ⟨hidle, trivial, by omega⟩

/-- R171, R173: a column that reads low notes the key of the row and that column. -/
theorem scanAt_readColumn (h0 : s.seqIdx.toNat % 5 ≠ 0) (h4 : s.seqIdx.toNat % 5 ≠ 4) (c : Fin 3)
    (hc : c.val = s.seqIdx.toNat % 5 - 1) (a : Answer) :
    ((scanNote (.read (.col c)) a s).performed (.read (.col c)) a).ScanAt := by
  obtain ⟨_, hd, _⟩ := (scanAt_searching hk).mp h
  have hi : (s.seqIdx + 1#16).toNat = s.seqIdx.toNat + 1 := toNat_succ hn (by omega)
  have hnext : (s.seqIdx.toNat + 1) % 5 ≠ 0 := by omega
  rw [scanAt_searching (s := (scanNote (.read (.col c)) a s).performed (.read (.col c)) a) hk]
  simp only [State.performed, scanNote, hi]
  refine ⟨by omega, ?_, fun k hk' => ?_⟩
  · rw [if_neg hnext, scanRow_succ hnext]
    exact hd.trans (if_neg h0)
  · split_ifs at hk'
    cases hk'
    simp only [keyOf, scanRow_val hn]
    omega

end

/-- R175, R176: a micro-operation of a scan that succeeds drives its row, restores it, or reads a column of it. -/
theorem scanAt_scanStep {s : State} {m : MicroOp} {a : Answer} (h : s.ScanAt) (hm : scanNext s = some m)
    (hf : (scanStep m a s).status.fault = false) : (scanStep m a s).ScanAt := by
  rw [scanStep_of_noFault hf]
  obtain ⟨hk, hop⟩ := scanNext_eq_some hm
  obtain ⟨hn, ⟨h0, rfl⟩ | ⟨h0, hup, rfl⟩ | ⟨h0, h4, rfl⟩⟩ := scanOpAt_cases hop
  · exact scanAt_driveRow h hk hn h0 a
  · exact scanAt_restoreRow h hk hn h0 hup a
  · exact scanAt_readColumn h hk hn h0 h4 _ (by simp only [Fin.val_ofNat]; omega) a

theorem scanNext_eq_none {s : State} (h : scanNext s = none) : s.kTmp.isSome ∨ 20 ≤ s.seqIdx.toNat := by
  unfold scanNext at h
  split_ifs at h with hk
  · exact .inl hk
  · exact .inr (scanOpAt_eq_none h)

/-- R176: at the end of a scan, with a key or without, all rows are high again. -/
theorem State.ScanAt.drive_of_end {s : State} (h : s.ScanAt) (hn : scanNext s = none) : s.drive = Drive.idle := by
  cases hk : s.kTmp with
  | some k => exact ((scanAt_found hk).mp h).1
  | none =>
    obtain ⟨hle, hd, _⟩ := (scanAt_searching hk).mp h
    have hge : 20 ≤ s.seqIdx.toNat := (scanNext_eq_none hn).resolve_left (by simp [hk])
    rw [hd, if_pos (by omega)]

/-! ### Inside a job -/

/-- R110: where a micro-operation that is no line fault leaves its job. -/
theorem jobAt_perform {s : State} {j : Job} {m : MicroOp} {a : Answer} (h : s.JobAt j)
    (hm : nextOp j s = some m) (hf : (perform j m a s).status.fault = false) : (perform j m a s).JobAt j := by
  rcases j with _ | i
  · obtain ⟨d, hat⟩ := jobAt_lineInit.mp h
    have hp : perform .lineInit m a s = s.performed m a := microStep_of_noFault (by decide) hf
    rw [hp]
    exact jobAt_lineInit.mpr ⟨d, hat.performed (by decide) hm a⟩
  · cases i
    case scan | poll => exact scanAt_scanStep h hm hf
    case debClear => cases hm
    case setSegments => exact display_jobAt_perform rfl h hm hf
    case showDigits => exact display_jobAt_perform rfl h hm hf
    case showBlanked => exact display_jobAt_perform rfl h hm hf

/-- R33, R34, R133, R176: a job that has come to its completion step has left all lines idle. -/
theorem State.JobAt.drive_of_end {s : State} {j : Job} (h : s.JobAt j) (hn : nextOp j s = none) :
    s.drive = Drive.idle := by
  rcases j with _ | i
  · obtain ⟨d, hat⟩ := jobAt_lineInit.mp h
    exact hat.drive_of_end hn
  · cases i
    case scan | poll => exact State.ScanAt.drive_of_end h hn
    case debClear => exact h.1
    case setSegments => exact display_drive_of_end rfl h hn
    case showDigits => exact display_drive_of_end rfl h hn
    case showBlanked => exact display_drive_of_end rfl h hn

/-- R106: an accepted command starts at the beginning of its sequence, on idle lines. -/
theorem jobAt_accept {s : State} {i : Instr} (hd : s.drive = Drive.idle) (hl : operandLegal i s.arg = true) :
    (accept i.opcode s).JobAt (.command i) := by
  cases i
  case scan | poll =>
    exact (scanAt_searching (s := accept _ s) rfl).mpr ⟨Nat.zero_le _, hd, fun _ h => nomatch h⟩
  case debClear => exact ⟨hd, rfl⟩
  case setSegments => exact ⟨Nat.zero_le _, hd⟩
  case showDigits => exact ⟨hl, Nat.zero_le _, hd⟩
  case showBlanked => exact ⟨hl, Nat.zero_le _, hd⟩

theorem jobOf_opcode (i : Instr) : jobOf i.opcode = some (.command i) := by
  cases i <;> rfl

/-! ### The result registers -/

theorem pollEvent_legal (k : Option Key) (prev : Word) :
    pollEvent k prev = 0#32 ∨ ∃ key, pollEvent k prev = keyEvent key := by
  unfold pollEvent
  split
  · split_ifs
    · exact .inr ⟨_, rfl⟩
    · exact .inl rfl
  · exact .inl rfl

/-- R26, R27, R28: what a completion step commits is encoded. -/
theorem complete_resultsLegal {s : State} (h : s.ResultsLegal) (j : Job) : (complete j s).ResultsLegal := by
  obtain ⟨hres, hprev, hevt⟩ := h
  rcases j with _ | i
  · exact ⟨hres, hprev, hevt⟩
  · cases i
    case scan => exact ⟨⟨s.kTmp, rfl⟩, hprev, hevt⟩
    case poll => exact ⟨⟨s.kTmp, rfl⟩, ⟨s.kTmp, rfl⟩, pollEvent_legal s.kTmp s.prev⟩
    case debClear => exact ⟨hres, ⟨none, rfl⟩, hevt⟩
    all_goals exact ⟨hres, hprev, hevt⟩

theorem perform_resultsLegal {s : State} (h : s.ResultsLegal) (j : Job) (m : MicroOp) (a : Answer) :
    (perform j m a s).ResultsLegal := by
  rcases perform_outcome j m a s with ⟨k, hit, hp⟩ | ⟨c, d, e, _, hp⟩ <;> rw [hp] <;> exact h

theorem noResults_legal {s : State} (hres : s.keyRes = 0#32) (hprev : s.prev = 0#32) (hevt : s.keyEvt = 0#32) :
    s.ResultsLegal :=
  ⟨⟨none, hres⟩, ⟨none, hprev⟩, .inl hevt⟩

/-! ### The invariant -/

theorem inv_of_faulted {s : State} (hst : s.status.Legal) (hres : s.ResultsLegal) (hf : s.status.fault = true) :
    s.Inv :=
  ⟨hst, hres, fun h => absurd h.2 (by simp [hf]), fun h => absurd h.2 (by simp [hf])⟩

theorem inv_of_ready {s : State} (hst : s.status.Legal) (hres : s.ResultsLegal) (hr : s.Ready)
    (hd : s.drive = Drive.idle) : s.Inv :=
  ⟨hst, hres, fun _ => hd, fun h => absurd h.1 (by simp [hr.1])⟩

theorem inv_of_running {s : State} (hst : s.status.Legal) (hres : s.ResultsLegal) (hr : s.Running) {j : Job}
    (hj : jobOf s.curOp = some j) (hat : s.JobAt j) : s.Inv :=
  ⟨hst, hres, fun h => absurd h.1 (by simp [hr.1]), fun _ => ⟨j, hj, hat⟩⟩

/-- Settles O57: the reset state is ready, with its lines idle. -/
theorem resetMeetsInvariant : Obligations.ResetMeetsInvariant :=
  inv_of_ready (Status.legal_of_noFault rfl ⟨rfl, rfl, rfl⟩) (noResults_legal rfl rfl rfl) ⟨rfl, rfl⟩ rfl

/-- In a running state of the invariant, the job that `CUR_OP` names is where it can be. -/
theorem State.Inv.jobAt {s : State} {j : Job} (h : s.Inv) (hr : s.Running) (hj : jobOf s.curOp = some j) :
    s.JobAt j := by
  obtain ⟨_, _, _, hrun⟩ := h
  obtain ⟨j', hj', hat⟩ := hrun hr
  rwa [Option.some.inj (hj'.symm.trans hj)] at hat

theorem inv_reset (s : State) : (resetStep s).Inv :=
  inv_of_running (j := .lineInit) (Status.legal_of_noFault rfl ⟨rfl, rfl, rfl⟩) (noResults_legal rfl rfl rfl)
    ⟨rfl, rfl⟩ rfl (jobAt_lineInit.mpr ⟨s.drive, Nat.zero_le _, rfl⟩)

theorem inv_accept {s : State} {i : Instr} (h : s.Inv) (hr : s.Ready) (hl : operandLegal i s.arg = true) :
    (accept i.opcode s).Inv := by
  obtain ⟨hst, hres, hidle, _⟩ := h
  exact inv_of_running (Status.legal_setBusy hst hr.2 true) hres ⟨rfl, hr.2⟩ (jobOf_opcode i)
    (jobAt_accept (hidle hr) hl)

theorem inv_dispatchFault {s : State} {c : Cause} (h : s.Inv) (hc : c ≠ .none) (op : Byte) :
    (dispatchFault c op s).Inv := by
  obtain ⟨_, hres, _⟩ := h
  exact inv_of_faulted (Status.legal_raiseFault hc op 0#16 s) hres rfl

theorem inv_perform {s : State} {j : Job} {m : MicroOp} (h : s.Inv) (hr : s.Running) (hj : jobOf s.curOp = some j)
    (hm : nextOp j s = some m) (a : Answer) : (perform j m a s).Inv := by
  have hat := h.jobAt hr hj
  obtain ⟨hst, hres, _⟩ := h
  have hst' := perform_status_legal hst j m a
  have hres' := perform_resultsLegal hres j m a
  cases hf : (perform j m a s).status.fault with
  | true => exact inv_of_faulted hst' hres' hf
  | false =>
    obtain ⟨k, hit, hp⟩ := perform_of_noFault hf
    have hr' : (perform j m a s).Running := ⟨by rw [hp]; exact hr.1, hf⟩
    exact inv_of_running hst' hres' hr' (by rw [hp]; exact hj) (jobAt_perform hat hm hf)

theorem inv_complete {s : State} {j : Job} (h : s.Inv) (hr : s.Running) (hj : jobOf s.curOp = some j)
    (hn : nextOp j s = none) : (complete j s).Inv := by
  have hidle : s.drive = Drive.idle := (h.jobAt hr hj).drive_of_end hn
  obtain ⟨hst, hres, _⟩ := h
  exact inv_of_ready (complete_status_legal hst hr.2 j) (complete_resultsLegal hres j) (complete_ready hr.2 j)
    ((complete_drive j s).trans hidle)

/-- Every operation keeps the invariant. -/
theorem inv_keptByOperations : KeptByOperations State.Inv where
  port _ _ _ _ _ h := h
  reset s _ := inv_reset s
  overrunning _ h := h
  accepting _ _ hr hl h := inv_accept h hr hl
  dispatchFaulting _ _ op hc h := inv_dispatchFault h hc op
  performing _ _ _ a hr hj hm h := inv_perform h hr hj hm a
  completing _ _ hr hj hn h := inv_complete h hr hj hn

/-- Settles O58: every operation keeps the invariant (`inv_keptByOperations`), so every step does. -/
theorem stepKeepsInvariant : Obligations.StepKeepsInvariant :=
  fun _ _ hs h => inv_keptByOperations.of_step hs h

end Sys2Proof.Machine

namespace Sys2Proof.Machine

/-! ### The accesses that exist at the port -/

theorem portWf_iff {width o : Nat} : Access.portWf width o = true ↔ width = 32 ∧ o % 4 = 0 ∧ o < 32 := by
  simp [Access.portWf, and_assoc]

theorem portWf_eq_false {width o : Nat} (h : width ≠ 32 ∨ o % 4 ≠ 0 ∨ 0x1C < o) :
    Access.portWf width o = false := by
  rw [← Bool.not_eq_true, portWf_iff]
  omega

/-- R22, R61: every offset at which an access exists holds a register. -/
theorem regAt_of_portWf {width o : Nat} (h : Access.portWf width o = true) : ∃ r, regAt o = some r := by
  obtain ⟨_, hmod, hlt⟩ := portWf_iff.mp h
  obtain ⟨n, rfl⟩ := Nat.dvd_of_mod_eq_zero hmod
  have hn : n < 8 := by omega
  interval_cases n <;> exact ⟨_, rfl⟩

theorem hostAccess_of_not_wf {a : Access} (h : a.wf = false) (s : State) :
    hostAccess a s = .refused (.badAccess a) := by
  simp [hostAccess, h]

theorem writeReg_next (r : Reg) (v : Word) (s : State) : ∃ t, writeReg r v s = .next t := by
  cases r with
  | cmd =>
    simp only [writeReg, writeCmd]
    split
    · exact ⟨_, exec_eq_request _ s⟩
    · exact ⟨_, rfl⟩
  | _ => exact ⟨_, rfl⟩

/-- R61, R103: an access that exists at the port is carried out. -/
theorem hostAccess_of_wf {a : Access} (h : a.wf = true) (s : State) : ∃ t, hostAccess a s = .next t := by
  cases a with
  | rd width o =>
    obtain ⟨r, hr⟩ := regAt_of_portWf h
    exact ⟨hostRead r s, by simp [hostAccess, h, hr]⟩
  | wr width o v =>
    obtain ⟨r, hr⟩ := regAt_of_portWf h
    obtain ⟨t, ht⟩ := writeReg_next r v s
    exact ⟨t, by simp [hostAccess, h, hr, ht]⟩

theorem engineTurn_not_refused (a : Answer) (s : State) (r : Refusal) : engineTurn a s ≠ .refused r := by
  unfold engineTurn engineStep
  split
  · split
    · nofun
    · split <;> nofun
  · nofun

/-- U9: the host's access is the only turn that can be refused, where it does not exist at the port. -/
theorem takeTurn_refused {turn : Turn} {s : State} {r : Refusal} (h : takeTurn turn s = .refused r) :
    ∃ a, turn = .host a ∧ a.wf = false ∧ r = .badAccess a := by
  cases turn with
  | reset => cases h
  | engine a => exact absurd h (engineTurn_not_refused a s r)
  | host a =>
    rw [takeTurn_host] at h
    cases hwf : a.wf with
    | true =>
      obtain ⟨t, ht⟩ := hostAccess_of_wf hwf s
      cases ht.symm.trans h
    | false =>
      rw [hostAccess_of_not_wf hwf] at h
      cases h
      exact ⟨a, rfl, hwf, rfl⟩

theorem step_turn {s : State} {turn : Turn} {ts : List Turn} (h : s.turns = turn :: ts) :
    step s = takeTurn turn (s.withTurns ts) := by
  simp [step, h]

/-- Settles O17: an access that is not well-formed is refused by its name, and no other turn is refused
(`takeTurn_refused`). -/
theorem onlyBadAccessesAreRefused : Obligations.OnlyBadAccessesAreRefused := by
  refine ⟨fun s ts width o v hbad => ?_, fun s r h => ?_⟩
  · have hwf := portWf_eq_false hbad
    exact ⟨fun hts => (step_host hts).trans (hostAccess_of_not_wf (a := .rd width o) hwf _),
      fun hts => (step_host hts).trans (hostAccess_of_not_wf (a := .wr width o v) hwf _)⟩
  · cases hts : s.turns with
    | nil =>
      rw [step_free hts] at h
      exact absurd h (engineTurn_not_refused _ _ r)
    | cons turn ts =>
      rw [step_turn hts] at h
      obtain ⟨a, rfl, hwf, hr⟩ := takeTurn_refused h
      exact ⟨a, ts, hr, rfl, hwf⟩

/-! ### What the host changes, the engine does not read (R67, R112) -/

/-- `s` with `ARG`, `OVR` and the values read as the host may have left them. -/
def State.hostSet (v : Word) (o : Bool) (rs : List Word) (s : State) : State :=
  { s with arg := v, reads := rs, status := { s.status with ovr := o } }

section

variable (v : Word) (o : Bool) (rs : List Word)

theorem nextOp_hostSet (j : Job) (s : State) : nextOp j (s.hostSet v o rs) = nextOp j s := rfl

theorem microStep_hostSet (c : Cause) (m : MicroOp) (a : Answer) (s : State) :
    microStep c m a (s.hostSet v o rs) = (microStep c m a s).hostSet v o rs := by
  cases m with
  | write l w =>
    simp only [microStep, lineWrite]
    split <;> rfl
  | read l =>
    simp only [microStep, lineRead]
    split <;> rfl
  | delay => rfl

theorem scanNote_hostSet (m : MicroOp) (a : Answer) (s : State) :
    scanNote m a (s.hostSet v o rs) = (scanNote m a s).hostSet v o rs := by
  unfold scanNote
  split <;> rfl

theorem scanStep_hostSet (m : MicroOp) (a : Answer) (s : State) :
    scanStep m a (s.hostSet v o rs) = (scanStep m a s).hostSet v o rs := by
  simp only [scanStep, scanNote_hostSet, ← apply_ite (State.hostSet v o rs), microStep_hostSet]

theorem perform_hostSet (j : Job) (m : MicroOp) (a : Answer) (s : State) :
    perform j m a (s.hostSet v o rs) = (perform j m a s).hostSet v o rs := by
  rcases j with _ | i
  · exact microStep_hostSet v o rs .ioInit m a s
  · cases i
    case scan | poll => exact scanStep_hostSet v o rs m a s
    all_goals exact microStep_hostSet v o rs .ioDrive m a s

theorem complete_hostSet (j : Job) (s : State) :
    complete j (s.hostSet v o rs) = (complete j s).hostSet v o rs := by
  rcases j with _ | i
  · rfl
  · cases i <;> rfl

theorem engineTurn_hostSet {a : Answer} {s t : State} (h : engineTurn a s = .next t) :
    engineTurn a (s.hostSet v o rs) = .next (t.hostSet v o rs) := by
  rcases engineTurn_cases h with ⟨hr, hstep⟩ | ⟨hr, rfl⟩
  · have hr' : (s.hostSet v o rs).Running := hr
    rw [engineTurn_running hr']
    obtain ⟨j, hj, ⟨m, hm, rfl⟩ | ⟨hn, rfl⟩⟩ := engineStep_cases hstep
    · rw [← perform_hostSet]
      exact engineStep_perform hj ((nextOp_hostSet v o rs j s).trans hm)
    · rw [← complete_hostSet]
      exact engineStep_complete hj ((nextOp_hostSet v o rs j s).trans hn)
  · exact engineTurn_not_running hr

end

/-- Settles O36: the engine's turn commutes with what the host sets (`engineTurn_hostSet`). -/
theorem hostCannotDisturbCommand : Obligations.HostCannotDisturbCommand :=
  fun _ _ _ v o rs h => engineTurn_hostSet v o rs h

/-! ### The result registers -/

/-- `KEYRES`, `KEYEVT` and `PREV` (R26 to R28). -/
def State.results (s : State) : Word × Word × Word := (s.keyRes, s.keyEvt, s.prev)

theorem writeCmd_results {w : Word} {s t : State} (h : writeCmd w s = .next t) : t.results = s.results := by
  rcases writeCmd_cases h with ⟨_, rfl⟩ | ⟨_, rfl⟩ | ⟨_, i, _, _, rfl⟩ | ⟨_, c, op, _, rfl⟩ <;> rfl

theorem hostAccess_results {a : Access} {s t : State} (h : hostAccess a s = .next t) : t.results = s.results := by
  rcases hostAccess_cases h with ⟨r, rfl⟩ | ⟨v, rfl⟩ | rfl | ⟨w, hw⟩
  · rfl
  · rfl
  · rfl
  · exact writeCmd_results hw

theorem perform_results (j : Job) (m : MicroOp) (a : Answer) (s : State) :
    (perform j m a s).results = s.results := by
  rcases perform_outcome j m a s with ⟨k, hit, h⟩ | ⟨c, d, e, _, h⟩ <;> rw [h] <;> rfl

/-- R68, R111: an engine turn leaves the results as they are unless it is a completion step. -/
theorem engineTurn_results {a : Answer} {s t : State} (h : engineTurn a s = .next t) :
    t.results = s.results ∨ (s.Running ∧ t.Ready ∧ t.trace = s.trace ∧ t.drive = s.drive) := by
  rcases engineTurn_cases h with ⟨hr, hstep⟩ | ⟨_, rfl⟩
  · obtain ⟨j, _, ⟨m, _, rfl⟩ | ⟨_, rfl⟩⟩ := engineStep_cases hstep
    · exact .inl (perform_results j m a s)
    · exact .inr ⟨hr, complete_ready hr.2 j, complete_trace j s, complete_drive j s⟩
  · exact .inl rfl

/-- Settles O55: a host access changes no result, and an engine turn only at a completion step
(`engineTurn_results`). -/
theorem resultsChangeOnlyAtCompletion : Obligations.ResultsChangeOnlyAtCompletion := by
  intro s t h hreset hchange
  have hne : t.results ≠ s.results := by
    simpa only [State.results, ne_eq, Prod.mk.injEq, not_and_or] using hchange
  rcases step_cases h with ⟨ts, hts, _⟩ | ⟨a, ts, _, ha⟩ | ⟨a, ts, _, he⟩ | ⟨_, he⟩
  · exact absurd hts (hreset ts)
  · exact absurd (hostAccess_results (s := s.withTurns ts) ha) hne
  · exact (engineTurn_results (s := s.withTurns ts) he).resolve_left hne
  · exact (engineTurn_results (s := { s with drawn := s.drawn + 1 }) he).resolve_left hne

/-! ### The window on the bus -/

theorem base_aligned : Config.base % 32 = 0 := Nat.mul_mod_right 32 Config.baseBlock

theorem busOffset_inside {o : Nat} (h : o < 32) : busOffset (Config.base + o) = some o := by
  rw [busOffset, if_pos ⟨by omega, by omega⟩, Nat.add_sub_cancel_left]

theorem busOffset_outside {a : Nat} (h : a < Config.base ∨ Config.base + 32 ≤ a) : busOffset a = none :=
  if_neg (by omega)

/-- R62: byte `j` of the register at offset `4n`. -/
theorem windowByte_of_regAt {n j : Nat} {r : Reg} (hj : j < 4) (hr : regAt (4 * n) = some r) (s : State) :
    windowByte (4 * n + j) s = some ((readReg r s).extractLsb' (8 * j) 8) := by
  have hdiv : (4 * n + j) / 4 = n := by omega
  have hmod : (4 * n + j) % 4 = j := by omega
  rw [windowByte, hdiv, hmod, hr, Option.map_some]

/-- Settles O20: its four parts are the four lemmas before it. -/
theorem busWindowAndBytes : Obligations.BusWindowAndBytes :=
  ⟨base_aligned, fun _ ho => busOffset_inside ho, fun _ ha => busOffset_outside ha,
    fun s _ _ _ hj hr => windowByte_of_regAt hj hr s⟩

end Sys2Proof.Machine

namespace Sys2Proof.Machine

/-! ### The value of an operand (R84, R85) -/

theorem toNat_digitLane (w : Word) (i : Fin 4) : (digitLane w i).toNat = w.toNat / 16 ^ i.val % 16 := by
  rw [digitLane, BitVec.extractLsb'_toNat, Nat.shiftRight_eq_div_pow, Nat.pow_mul]

theorem dig4Reserved_eq_zero_iff (w : Word) : dig4Reserved w = 0#16 ↔ w.toNat < 65536 := by
  have hw : w.toNat < 4294967296 := w.isLt
  rw [BitVec.toNat_eq, dig4Reserved, BitVec.extractLsb'_toNat, Nat.shiftRight_eq_div_pow, BitVec.toNat_ofNat]
  omega

/-- The list of digits holds the four lanes. -/
theorem all_dig4_iff (w : Word) (p : Nibble → Bool) : (dig4 w).all p = true ↔ ∀ i, p (digitLane w i) = true := by
  simp [dig4, Fin.forall_fin_succ]

/-- R85: the reserved half is 0 and no digit is above `top`. -/
theorem dig4Legal_iff (top : Nibble) (w : Word) :
    dig4Legal top w = true ↔ w.toNat < 65536 ∧ ∀ i < 4, w.toNat / 16 ^ i % 16 ≤ top.toNat := by
  simp only [dig4Legal, Bool.and_eq_true, beq_iff_eq, dig4Reserved_eq_zero_iff, all_dig4_iff, decide_eq_true_eq,
    BitVec.le_def, toNat_digitLane, Fin.forall_iff]

/-- Settles O4: `dig4Legal_iff` with the two limits 10 and 9; the other four commands check nothing. -/
theorem operandLegalityByValue : Obligations.OperandLegalityByValue :=
  fun v => ⟨dig4Legal_iff 10#4 v, dig4Legal_iff 9#4 v, rfl, rfl, rfl, rfl⟩

/-! ### The command word (R80 to R82) -/

/-- R80: the two fields are the whole word. -/
theorem reservedField_append_opcodeField (w : Word) : reservedField w ++ opcodeField w = w :=
  BitVec.extractLsb'_append_extractLsb' (w := 24) (len := 8)

theorem opcodeField_encode (i : Instr) : opcodeField (encode i) = i.opcode :=
  BitVec.extractLsb'_append_eq_right

theorem reservedField_encode (i : Instr) : reservedField (encode i) = 0#24 :=
  BitVec.extractLsb'_append_eq_left

/-- R81: the opcode map is the inverse of `Instr.opcode`. -/
theorem decodeOpcode_eq_some_iff {op : Byte} {i : Instr} : decodeOpcode op = some i ↔ op = i.opcode := by
  refine ⟨fun h => ?_, fun h => h ▸ decodeOpcode_opcode i⟩
  unfold decodeOpcode at h
  split_ifs at h <;> cases h <;> assumption

theorem decode_encode (i : Instr) : decode (encode i) = .ok i := by
  simp [decode, reservedField_encode, opcodeField_encode, decodeOpcode_opcode]

/-- R81, R82: all 32 bits are compared. -/
theorem decode_eq_ok_iff {w : Word} {i : Instr} : decode w = .ok i ↔ w = encode i := by
  refine ⟨fun h => ?_, fun h => h ▸ decode_encode i⟩
  unfold decode at h
  split at h
  · cases h
  · rename_i hres
    split at h
    · rename_i j hop
      cases h
      rw [← reservedField_append_opcodeField w, not_not.mp hres, decodeOpcode_eq_some_iff.mp hop, encode]
    · cases h

/-- R62: a word is given back by its four bytes. -/
theorem wordOfBytes_extractLsb' (w : Word) :
    wordOfBytes (w.extractLsb' 0 8) (w.extractLsb' 8 8) (w.extractLsb' 16 8) (w.extractLsb' 24 8) = w := by
  rw [wordOfBytes, BitVec.extractLsb'_append_extractLsb'_eq_extractLsb' (start₂ := 24) (start₁ := 16) rfl,
    BitVec.extractLsb'_append_extractLsb'_eq_extractLsb' (start₂ := 16) (start₁ := 8) rfl,
    BitVec.extractLsb'_append_extractLsb'_eq_extractLsb' (start₂ := 8) (start₁ := 0) rfl, BitVec.extractLsb'_eq_self]

theorem decodeBytes_encodeBytes (i : Instr) (rest : List Byte) :
    decodeBytes (encodeBytes i ++ rest) = .ok (i, rest) := by
  simp only [encodeBytes, List.cons_append, List.nil_append, decodeBytes, wordOfBytes_extractLsb', decode_encode]

/-- Settles O1: as a word and as its four bytes. -/
theorem decodeOfEncodeIsIdentity : Obligations.DecodeOfEncodeIsIdentity :=
  fun i rest => ⟨decode_encode i, decodeBytes_encodeBytes i rest⟩

/-- Settles O2: the six values are the six encodings, and `decode_eq_ok_iff` says that no other word decodes. -/
theorem exactlySixWordsDecode : Obligations.ExactlySixWordsDecode :=
  fun _ => ⟨decode_eq_ok_iff, decode_eq_ok_iff, decode_eq_ok_iff, decode_eq_ok_iff, decode_eq_ok_iff,
    decode_eq_ok_iff⟩

/-- Settles O3: the five words are fixed, and the decoder is evaluated on each. -/
theorem sampleWordsDecode : Obligations.SampleWordsDecode := by
  unfold Obligations.SampleWordsDecode
  decide

/-! ### The operands the mnemonics pack (R83, R84, R88) -/

theorem byteLane_packSeg4 (b0 b1 b2 b3 : Byte) (i : Fin 4) :
    byteLane (packSeg4 b0 b1 b2 b3) i = [b0, b1, b2, b3][i] := by
  refine extractLsb'_eq_of_bits fun n hn => ?_
  rw [getLsbD_packSeg4]
  fin_cases i <;> simp (disch := omega) [if_pos, if_neg]

theorem digitLane_packDig4 (d0 d1 d2 d3 : Nibble) (i : Fin 4) :
    digitLane (packDig4 d0 d1 d2 d3) i = [d0, d1, d2, d3][i] := by
  refine extractLsb'_eq_of_bits fun n hn => ?_
  rw [getLsbD_packDig4]
  fin_cases i <;> simp (disch := omega) [if_pos, if_neg]

theorem dig4Reserved_packDig4 (d0 d1 d2 d3 : Nibble) : dig4Reserved (packDig4 d0 d1 d2 d3) = 0#16 := by
  refine extractLsb'_eq_of_bits fun n _ => ?_
  rw [getLsbD_packDig4]
  iterate 3 rw [if_neg (by omega)]
  rw [BitVec.getLsbD_of_ge _ _ (by omega), BitVec.getLsbD_zero]

theorem seg4_packSeg4 (b0 b1 b2 b3 : Byte) : seg4 (packSeg4 b0 b1 b2 b3) = [b0, b1, b2, b3] := by
  simp only [seg4, byteLane_packSeg4]; rfl

theorem dig4_packDig4 (d0 d1 d2 d3 : Nibble) : dig4 (packDig4 d0 d1 d2 d3) = [d0, d1, d2, d3] := by
  simp only [dig4, digitLane_packDig4]; rfl

/-- Settles O5: each lane reads its operand, and bits 31:16 of a packed DIG4 operand are 0. -/
theorem lanesReadPackedOperands : Obligations.LanesReadPackedOperands :=
  ⟨seg4_packSeg4, fun d0 d1 d2 d3 => ⟨dig4_packDig4 d0 d1 d2 d3, dig4Reserved_packDig4 d0 d1 d2 d3⟩⟩

/-! ### A step whose turn is a `CMD` write (R104) -/

theorem writeCmd_of_decode {w : Word} {i : Instr} (h : decode w = .ok i) (s : State) : writeCmd w s = exec i s := by
  simp only [writeCmd, h]

theorem step_cmdWrite {s : State} {ts : List Turn} {w : Word} (h : s.turns = .host (.wr 32 0x04 w) :: ts) :
    step s = writeCmd w (s.withTurns ts) :=
  step_host h

/-- Settles O6: the step is the `CMD` write (`step_cmdWrite`), which runs the word's command. -/
theorem stepRunsDecodedCommand : Obligations.StepRunsDecodedCommand :=
  fun _ _ _ _ hts hw => (step_cmdWrite hts).trans (writeCmd_of_decode hw _)

/-- The probe's table word of 32 bits is the command word itself. -/
theorem withFetchWord_encode_turns (s : State) (i : Instr) :
    (s.withFetchWord 32 (encode i).toNat).turns = .host (.wr 32 0x04 (encode i)) :: s.turns := by
  rw [State.withFetchWord, Nat.mod_eq_of_lt (encode i).isLt, BitVec.ofNat_toNat, BitVec.setWidth_eq]

/-- Settles O7: the placed word decodes to its command, and taking it off the list gives the state back. -/
theorem placedCommandRunsNext : Obligations.PlacedCommandRunsNext :=
  fun s i => stepRunsDecodedCommand _ _ _ _ (withFetchWord_encode_turns s i) (decode_encode i)

end Sys2Proof.Machine

namespace Sys2Proof.Machine

/-! ### Acceptance (R106) -/

theorem exec_of_legal {i : Instr} {s : State} (hr : s.Ready) (hl : operandLegal i s.arg = true) :
    exec i s = .next (accept i.opcode s) := by
  rw [exec_eq_request, hl, request_legal _ hr]

theorem accept_running {s : State} (hr : s.Ready) (op : Byte) : (accept op s).Running :=
  ⟨rfl, hr.2⟩

/-- Settles O8: the request is an acceptance (`exec_of_legal`), after which the engine runs the command. -/
theorem readyBlockAcceptsLegalCommand : Obligations.ReadyBlockAcceptsLegalCommand :=
  fun s i hr hl => ⟨accept i.opcode s, exec_of_legal hr hl, accept_running hr _, jobOf_opcode i, rfl⟩

/-! ### A display command from its request to its completion (R110, R111, R130) -/

theorem follows_display {i : Instr} {v : Word} {ops : List MicroOp} (h : displaySeq i v = some ops) :
    Follows (.command i) .ioDrive v ops := by
  cases i <;> cases h
  · exact follows_setSegments v
  · exact follows_showDigits v
  · exact follows_showBlanked v

/-- What the three commands have in common: the accepted command runs the update of its data bytes to the end. -/
theorem display_completes {i : Instr} {s : State} {bytes : List Byte} {answers : List Answer}
    (hseq : displaySeq i s.arg = some (updateSeq bytes)) (hr : s.Ready) (hl : operandLegal i s.arg = true)
    (hlen : 438 ≤ answers.length) (hnf : NoFailure answers) :
    ∃ t, exec i s = .next t ∧
      engineRun answers t = .next
        { s with
          curOp := i.opcode, argL := s.arg, seqIdx := 437#16, kTmp := none, scanHit := none,
          drive := { s.drive with clk := true, dio := true },
          trace := s.trace ++ updateTrace bytes answers } := by
  have h437 : (updateSeq bytes).length = 437 := length_displaySeq hseq
  refine ⟨accept i.opcode s, exec_of_legal hr hl, ?_⟩
  rw [engineRun_follows (follows_display hseq) (by omega) (updateSeq bytes) [] (accept i.opcode s) answers rfl rfl
    (jobOf_opcode i) (accept_running hr _) rfl (by omega) hnf (readsReleased_updateSeq _ _), after_updateSeq, h437]
  have hbusy : ({ s.status with busy := false } : Status) = s.status := by rw [← hr.1]
  simp only [accept, hbusy, updateTrace]

/-- Settles O38: its data bytes are the lanes of `ARG`. -/
theorem setSegmentsCompletes : Obligations.SetSegmentsCompletes :=
  fun s _ hr hlen hnf => display_completes (bytes := setSegmentsBytes s.arg) rfl hr rfl hlen hnf

/-- R143, R144: of four digits, only the second is sent with the separator. -/
theorem encDigits_four (table : Nibble → Byte) (d0 d1 d2 d3 : Nibble) :
    encDigits table [d0, d1, d2, d3] = [table d0, table d1 ||| 0x80#8, table d2, table d3] := by
  simp [encDigits, enc, separator]

/-- Settles O39: its data bytes are the encoded digits of `ARG`. -/
theorem showDigitsCompletes : Obligations.ShowDigitsCompletes := by
  intro s answers hr hl hlen hnf
  rw [← encDigits_four]
  exact display_completes (i := .showDigits) rfl hr hl hlen hnf

/-- Settles O40: its data bytes are the encoded digits that `blank` leaves. -/
theorem showBlankedCompletes : Obligations.ShowBlankedCompletes := by
  intro s answers e0 e1 e2 e3 hr hl hlen hnf hblank
  rw [← encDigits_four, ← hblank]
  exact display_completes (i := .showBlanked) rfl hr hl hlen hnf

/-! ### Every command ends (R113, R134, R177) -/

/-- R134, R175: no job has a micro-operation beyond the longest sequence. -/
theorem seqIdx_lt_of_nextOp {j : Job} {s : State} {m : MicroOp} (h : nextOp j s = some m) : s.seqIdx.toNat < 437 := by
  have hfixed {ops : List MicroOp} (hlen : ops.length ≤ 437) (hm : ops[s.seqIdx.toNat]? = some m) :
      s.seqIdx.toNat < 437 := by
    obtain ⟨hlt, _⟩ := List.getElem?_eq_some_iff.mp hm
    omega
  have hdisplay {i : Instr} {ops : List MicroOp} (hseq : displaySeq i s.argL = some ops) :
      ops[s.seqIdx.toNat]? = some m → s.seqIdx.toNat < 437 := hfixed (length_displaySeq hseq).le
  have hscan (hm : scanNext s = some m) : s.seqIdx.toNat < 437 := by
    obtain ⟨_, hop⟩ := scanNext_eq_some hm
    obtain ⟨hn, _⟩ := scanOpAt_cases hop
    omega
  rcases j with _ | i
  · exact hfixed (by decide) h
  · cases i
    case scan | poll => exact hscan h
    case debClear => cases h
    case setSegments => exact hdisplay (i := .setSegments) rfl h
    case showDigits => exact hdisplay (i := .showDigits) rfl h
    case showBlanked => exact hdisplay (i := .showBlanked) rfl h

/-- A bound on the engine turns a block is still busy for: the rest of the longest sequence, and the completion step. -/
def State.turnsLeft (s : State) : Nat := if s.status.busy then max 1 (438 - s.seqIdx.toNat) else 0

theorem turnsLeft_idle {s : State} (h : s.status.busy = false) : s.turnsLeft = 0 := by
  simp [State.turnsLeft, h]

theorem turnsLeft_busy {s : State} (h : s.status.busy = true) : s.turnsLeft = max 1 (438 - s.seqIdx.toNat) := by
  simp [State.turnsLeft, h]

theorem turnsLeft_le (s : State) : s.turnsLeft ≤ 438 := by
  unfold State.turnsLeft
  split_ifs <;> omega

theorem turnsLeft_eq_zero_iff {s : State} : s.turnsLeft = 0 ↔ s.status.busy = false := by
  cases hb : s.status.busy with
  | false => simp [turnsLeft_idle hb]
  | true => simp [turnsLeft_busy hb]

/-- R207: a micro-operation brings the end nearer by one, a line fault at once. -/
theorem turnsLeft_perform {j : Job} {m : MicroOp} {s : State} (hb : s.status.busy = true) (hm : nextOp j s = some m)
    (a : Answer) : (perform j m a s).turnsLeft < s.turnsLeft := by
  have hlt := seqIdx_lt_of_nextOp hm
  rw [turnsLeft_busy hb]
  rcases perform_outcome j m a s with ⟨k, hit, hp⟩ | ⟨c, d, e, _, hp⟩ <;> rw [hp]
  · have hi : (s.seqIdx + 1#16).toNat = s.seqIdx.toNat + 1 := toNat_succ hlt (by omega)
    rw [turnsLeft_busy (s := { s.performed m a with kTmp := k, scanHit := hit }) hb]
    simp only [State.performed, hi]
    omega
  · rw [turnsLeft_idle (s := s.lineFaulted c d e) rfl]
    exact lt_max_of_lt_left Nat.one_pos

theorem turnsLeft_complete {s : State} (hb : s.status.busy = true) (j : Job) :
    (complete j s).turnsLeft < s.turnsLeft := by
  rw [turnsLeft_idle (by rw [complete_status]), turnsLeft_busy hb]
  exact lt_max_of_lt_left Nat.one_pos

/-- R25: in a state of the invariant a block that is busy is not faulted. -/
theorem State.Inv.running_of_busy {s : State} (h : s.Inv) (hb : s.status.busy = true) : s.Running := by
  obtain ⟨⟨hexcl, _⟩, _⟩ := h
  refine ⟨hb, ?_⟩
  cases hf : s.status.fault with
  | false => rfl
  | true => exact absurd hb (by simp [hexcl hf])

/-- R110: in a state of the invariant `CUR_OP` names the engine's job, so the engine's turn is taken. -/
theorem State.Inv.engineTurn_next {s : State} (h : s.Inv) (a : Answer) : ∃ t, engineTurn a s = .next t := by
  by_cases hr : s.Running
  · obtain ⟨_, _, _, hrun⟩ := h
    obtain ⟨j, hj, _⟩ := hrun hr
    rw [engineTurn_running hr]
    cases hm : nextOp j s with
    | some m => exact ⟨_, engineStep_perform hj hm⟩
    | none => exact ⟨_, engineStep_complete hj hm⟩
  · exact ⟨s, engineTurn_not_running hr⟩

theorem engineTurn_turnsLeft {a : Answer} {s t : State} (h : s.Inv) (ht : engineTurn a s = .next t) :
    t.turnsLeft ≤ s.turnsLeft - 1 := by
  rcases engineTurn_cases ht with ⟨hr, hstep⟩ | ⟨hr, rfl⟩
  · obtain ⟨j, _, ⟨m, hm, rfl⟩ | ⟨_, rfl⟩⟩ := engineStep_cases hstep
    · exact Nat.le_sub_one_of_lt (turnsLeft_perform hr.1 hm a)
    · exact Nat.le_sub_one_of_lt (turnsLeft_complete hr.1 j)
  · have hidle : t.status.busy = false := Bool.eq_false_iff.mpr fun hb => hr (h.running_of_busy hb)
    exact (turnsLeft_idle hidle).trans_le (Nat.zero_le _)

/-- A run of engine turns from a state of the invariant never stops, and each turn counts. -/
theorem engineRun_turnsLeft (answers : List Answer) {s : State} (h : s.Inv) :
    ∃ t, engineRun answers s = .next t ∧ t.turnsLeft ≤ s.turnsLeft - answers.length := by
  induction answers generalizing s with
  | nil => exact ⟨s, rfl, le_rfl⟩
  | cons a as ih =>
    obtain ⟨u, hu⟩ := h.engineTurn_next a
    obtain ⟨t, ht, hleft⟩ := ih (inv_keptByOperations.of_engineTurn h hu)
    have hone := engineTurn_turnsLeft h hu
    refine ⟨t, by simp only [engineRun, hu, ht], ?_⟩
    rw [List.length_cons]
    omega

/-- Settles O60: at most 438 turns are left in any state, and a run of 438 leaves none. -/
theorem everyCommandEnds : Obligations.EveryCommandEnds := by
  intro s answers h hlen
  obtain ⟨t, ht, hleft⟩ := engineRun_turnsLeft answers h
  have hbound := turnsLeft_le s
  exact ⟨t, ht, turnsLeft_eq_zero_iff.mp (by omega)⟩

/-! ### The model's own fault (log entry 8) -/

theorem hostAccess_not_fault (a : Access) (s : State) (f : Fault) : hostAccess a s ≠ .fault f := by
  cases hwf : a.wf with
  | true =>
    obtain ⟨t, ht⟩ := hostAccess_of_wf hwf s
    simp [ht]
  | false => simp [hostAccess_of_not_wf hwf]

theorem State.Inv.engineTurn_not_fault {s : State} (h : s.Inv) (a : Answer) (f : Fault) :
    engineTurn a s ≠ .fault f := by
  obtain ⟨t, ht⟩ := h.engineTurn_next a
  simp [ht]

theorem State.Inv.takeTurn_not_fault {s : State} (h : s.Inv) (turn : Turn) (f : Fault) :
    takeTurn turn s ≠ .fault f := by
  cases turn with
  | reset => nofun
  | host a => exact hostAccess_not_fault a s f
  | engine a => exact h.engineTurn_not_fault a f

/-- Settles O59: whatever turn is next, it is taken in a state of the invariant. -/
theorem invariantStatesNeverFault : Obligations.InvariantStatesNeverFault := by
  intro s f h
  cases hts : s.turns with
  | nil =>
    rw [step_free hts]
    exact State.Inv.engineTurn_not_fault (inv_keptByOperations.port s s.arg s.reads s.turns (s.drawn + 1) h) _ f
  | cons turn ts =>
    rw [step_turn hts]
    exact State.Inv.takeTurn_not_fault (inv_keptByOperations.port s s.arg s.reads ts s.drawn h) turn f

/-! ### Overrun (R105) -/

theorem writeCmd_keeps_ovr {w : Word} {s t : State} (hs : s.status.ovr = true) (h : writeCmd w s = .next t) :
    t.status.ovr = true := by
  rcases writeCmd_cases h with ⟨_, rfl⟩ | ⟨_, rfl⟩ | ⟨_, i, _, _, rfl⟩ | ⟨_, c, op, _, rfl⟩
  · exact hs
  · rfl
  · exact hs
  · exact hs

theorem hostAccess_keeps_ovr {a : Access} {s t : State} (hs : s.status.ovr = true) (h : hostAccess a s = .next t) :
    t.status.ovr = true := by
  rcases hostAccess_cases h with ⟨r, rfl⟩ | ⟨v, rfl⟩ | rfl | ⟨w, hw⟩
  · exact hs
  · exact hs
  · exact hs
  · exact writeCmd_keeps_ovr hs hw

theorem perform_ovr (j : Job) (m : MicroOp) (a : Answer) (s : State) :
    (perform j m a s).status.ovr = s.status.ovr := by
  rcases perform_outcome j m a s with ⟨k, hit, h⟩ | ⟨c, d, e, _, h⟩ <;> rw [h] <;> rfl

theorem engineTurn_ovr {a : Answer} {s t : State} (h : engineTurn a s = .next t) : t.status.ovr = s.status.ovr := by
  rcases engineTurn_cases h with ⟨_, hstep⟩ | ⟨_, rfl⟩
  · obtain ⟨j, _, ⟨m, _, rfl⟩ | ⟨_, rfl⟩⟩ := engineStep_cases hstep
    · exact perform_ovr j m a s
    · rw [complete_status]
  · rfl

/-- Settles O12: no host access clears `OVR`, and the engine does not touch it. -/
theorem overrunStaysUntilReset : Obligations.OverrunStaysUntilReset := by
  intro s t hs h
  rcases step_cases h with ⟨ts, hts, _⟩ | ⟨a, ts, _, ha⟩ | ⟨a, ts, _, he⟩ | ⟨_, he⟩
  · exact .inr ⟨ts, hts⟩
  · exact .inl (hostAccess_keeps_ovr (s := s.withTurns ts) hs ha)
  · exact .inl ((engineTurn_ovr he).trans hs)
  · exact .inl ((engineTurn_ovr he).trans hs)

/-- R105, R208: whatever its word, a request made of a running block is an overrun. -/
theorem writeCmd_running {s : State} (hr : s.Running) (w : Word) : writeCmd w s = .next (overrun s) := by
  obtain ⟨hbusy, hfault⟩ := hr
  obtain ⟨t, ht⟩ : ∃ t, writeCmd w s = .next t := writeReg_next .cmd w s
  rcases writeCmd_cases ht with ⟨hf, _⟩ | ⟨_, rfl⟩ | ⟨⟨hb, _⟩, _⟩ | ⟨⟨hb, _⟩, _⟩
  · simp [hfault] at hf
  · exact ht
  · simp [hbusy] at hb
  · simp [hbusy] at hb

/-- Settles O11: the step is the `CMD` write, an overrun (`writeCmd_running`). -/
theorem requestWhileBusySetsOverrunOnly : Obligations.RequestWhileBusySetsOverrunOnly :=
  fun s ts w hts hr => (step_cmdWrite hts).trans (writeCmd_running (s := s.withTurns ts) hr w)

/-! ### The register of an access (R22, R100 to R102) -/

theorem portWf_of_regAt {o : Nat} {r : Reg} (h : regAt o = some r) : Access.portWf 32 o = true := by
  unfold regAt at h
  split at h
  case h_9 => cases h
  all_goals rfl

theorem step_read {s : State} {ts : List Turn} {o : Nat} {r : Reg} (hts : s.turns = .host (.rd 32 o) :: ts)
    (hreg : regAt o = some r) : step s = .next (hostRead r (s.withTurns ts)) := by
  rw [step_host hts]
  simp [hostAccess, Access.wf, portWf_of_regAt hreg, hreg]

theorem step_write {s : State} {ts : List Turn} {o : Nat} {v : Word} {r : Reg}
    (hts : s.turns = .host (.wr 32 o v) :: ts) (hreg : regAt o = some r) :
    step s = writeReg r v (s.withTurns ts) := by
  rw [step_host hts]
  simp [hostAccess, Access.wf, portWf_of_regAt hreg, hreg]

/-- Settles O14: each offset holds its register (R22), whose value the read returns. -/
theorem readReturnsRegisterAndChangesNothing : Obligations.ReadReturnsRegisterAndChangesNothing := by
  intro s ts o v hts hmem
  obtain ⟨r, hreg, rfl⟩ : ∃ r, regAt o = some r ∧ readReg r s = v := by
    simp only [List.mem_cons, Prod.mk.injEq, List.not_mem_nil, or_false] at hmem
    rcases hmem with ⟨rfl, rfl⟩ | ⟨rfl, rfl⟩ | ⟨rfl, rfl⟩ | ⟨rfl, rfl⟩ | ⟨rfl, rfl⟩ | ⟨rfl, rfl⟩ | ⟨rfl, rfl⟩ |
      ⟨rfl, rfl⟩
    · exact ⟨.arg, rfl, rfl⟩
    · exact ⟨.cmd, rfl, rfl⟩
    · exact ⟨.status, rfl, rfl⟩
    · exact ⟨.keyRes, rfl, rfl⟩
    · exact ⟨.keyEvt, rfl, rfl⟩
    · exact ⟨.prev, rfl, rfl⟩
    · exact ⟨.lines, rfl, rfl⟩
    · exact ⟨.reserved, rfl, rfl⟩
  rw [step_read hts hreg]
  cases r <;> rfl

/-- Settles O15: offset 0 is `ARG`, which the write sets and a read returns. -/
theorem argWriteChangesArgOnly : Obligations.ArgWriteChangesArgOnly :=
  fun _ _ _ hts => ⟨step_write (r := .arg) hts rfl, rfl⟩

/-- R102: only `ARG` and `CMD` are written. -/
theorem writeReg_readOnly {r : Reg} (harg : r ≠ .arg) (hcmd : r ≠ .cmd) (v : Word) (s : State) :
    writeReg r v s = .next s := by
  cases r
  case arg => exact absurd rfl harg
  case cmd => exact absurd rfl hcmd
  all_goals rfl

/-- Settles O16: none of the six offsets is that of `ARG` or `CMD`. -/
theorem readOnlyWriteIsIgnored : Obligations.ReadOnlyWriteIsIgnored := by
  intro s ts o v hts hmem
  obtain ⟨r, hreg, harg, hcmd⟩ : ∃ r, regAt o = some r ∧ r ≠ .arg ∧ r ≠ .cmd := by
    simp only [List.mem_cons, List.not_mem_nil, or_false] at hmem
    rcases hmem with rfl | rfl | rfl | rfl | rfl | rfl <;> exact ⟨_, rfl, by decide, by decide⟩
  rw [step_write hts hreg, writeReg_readOnly harg hcmd]
  rfl

/-- Settles O30: the turn passes (`engineTurn_not_running`). -/
theorem engineIdlesUnlessRunning : Obligations.EngineIdlesUnlessRunning :=
  fun s ts _ hts hr => (step_engine hts).trans (engineTurn_not_running (s := s.withTurns ts) hr)

end Sys2Proof.Machine

namespace Sys2Proof.Machine

/-! ### The receiver watches an acknowledged sequence (R160 to R162) -/

/-- An answer that fails nothing and gives the acknowledgment. -/
def ackAnswer : Answer := { fail := false, pull := true, col := true, held := false }

/-- What the receiver makes of a sequence in which every acknowledgment is given. -/
def Receiver.acked (r : Receiver) (ops : List MicroOp) : Option Receiver :=
  r.watch (ops.map (displayEvent · ackAnswer))

/-- Of an answer the receiver sees the acknowledgment only. -/
theorem feed_displayEvent (r : Receiver) (m : MicroOp) {a : Answer} (h : a.pull = true) :
    r.feed (displayEvent m a) = r.feed (displayEvent m ackAnswer) := by
  cases m with
  | write l v => rfl
  | read l =>
    cases l with
    | dio => simp only [displayEvent, h, ackAnswer]
    | col c => rfl
  | delay => rfl

theorem watch_zipWith_displayEvent (r : Receiver) (ops : List MicroOp) {answers : List Answer}
    (hlen : ops.length ≤ answers.length) (hack : ∀ a ∈ answers, a.pull = true) :
    r.watch (List.zipWith displayEvent ops answers) = r.acked ops := by
  induction ops generalizing r answers with
  | nil => rfl
  | cons m ops ih =>
    cases answers with
    | nil => simp at hlen
    | cons a as =>
      obtain ⟨ha, has⟩ := List.forall_mem_cons.mp hack
      have hlen' : ops.length ≤ as.length := by simpa using hlen
      simp only [List.zipWith_cons_cons, Receiver.watch, feed_displayEvent r m ha, ih _ hlen' has]
      rfl

theorem watch_append (r : Receiver) (p q : List Event) : r.watch (p ++ q) = (r.watch p).bind (·.watch q) := by
  induction p generalizing r with
  | nil => rfl
  | cons e p ih =>
    simp only [List.cons_append, Receiver.watch]
    cases r.feed e with
    | none => rfl
    | some r' => exact ih r'

theorem acked_append {r r' r'' : Receiver} {p q : List MicroOp} (hp : r.acked p = some r')
    (hq : r'.acked q = some r'') : r.acked (p ++ q) = some r'' := by
  rw [Receiver.acked, List.map_append, watch_append, ← Receiver.acked, hp, Option.bind_some, ← Receiver.acked, hq]

theorem watch_single {r : Receiver} {e : Event} : r.watch [e] = r.feed e := by
  simp only [Receiver.watch]
  cases r.feed e <;> rfl

theorem acked_clk {r r' : Receiver} {v : Bool} (h : r.clock v = some r') : r.acked (writeHold .clk v) = some r' :=
  acked_append (p := [.write .clk v]) (watch_single.trans h) rfl

theorem acked_dio {r r' : Receiver} {v : Bool} (h : r.data v = some r') : r.acked (writeHold .dio v) = some r' :=
  acked_append (p := [.write .dio v]) (watch_single.trans h) rfl

/-! ### A byte of an open frame (R161 to R163) -/

/-- A receiver that knows what `r` knows, inside a frame of kind `k`, with the lines and the bits received as given. -/
def Receiver.inFrame (r : Receiver) (clk drive pull : Bool) (bits : List Bool) (k : FrameKind) : Receiver :=
  { r with clk := clk, drive := drive, pull := pull, current := some { bits := bits, kind := k } }

/-- R163: a whole byte `b` takes what is known from `r` and a frame of kind `k` to `r'` and a frame of kind `k'`,
whatever the lines. -/
def Receiver.Takes (r : Receiver) (k : FrameKind) (b : Byte) (r' : Receiver) (k' : FrameKind) : Prop :=
  ∀ clk drive pull bits,
    (r.inFrame clk drive pull bits k).take { bits := bits, kind := k } b = some (r'.inFrame clk drive pull bits k')

theorem takes_mode (r : Receiver) :
    r.Takes .empty 0x40#8 { r with dataMode := true, stored := nothingStored } .mode :=
  fun _ _ _ _ => rfl

theorem takes_address (r : Receiver) : r.Takes .empty 0xC0#8 r (.address 0) :=
  fun _ _ _ _ => rfl

theorem takes_control (r : Receiver) : r.Takes .empty 0x8F#8 r (.control 7) :=
  fun _ _ _ _ => rfl

theorem takes_data {r : Receiver} {p : Nat} (hmode : r.dataMode = true) (hp : p < r.stored.length) (b : Byte) :
    r.Takes (.address p) b { r with stored := r.stored.set p (some b) } (.address (p + 1)) :=
  fun _ _ _ _ => if_pos ⟨hmode, hp⟩

/-- R161: the fall of CLK before a bit is no acknowledgment's, and its rise samples DIO. -/
theorem acked_sendBit (r : Receiver) {bits : List Bool} (h : bits.length < 8) (clk drive : Bool) (k : FrameKind)
    (v : Bool) :
    (r.inFrame clk drive false bits k).acked (sendBit v) = some (r.inFrame true v false (bits ++ [v]) k) := by
  have hfall : (r.inFrame clk drive false bits k).clock false = some (r.inFrame false drive false bits k) := by
    cases clk with
    | false => rfl
    | true => exact if_neg h.ne
  have hrise : (r.inFrame false v false bits k).clock true = some (r.inFrame true v false (bits ++ [v]) k) := by
    simp [Receiver.clock, Receiver.inFrame, Receiver.dioLevel]
  exact acked_append (acked_append (acked_clk hfall) (acked_dio rfl)) (acked_clk hrise)

theorem acked_bits (r : Receiver) (k : FrameKind) (vs : List Bool) {bits : List Bool} (drive : Bool)
    (h : bits.length + vs.length ≤ 8) :
    ∃ drive', (r.inFrame true drive false bits k).acked (vs.flatMap sendBit) =
      some (r.inFrame true drive' false (bits ++ vs) k) := by
  induction vs generalizing bits drive with
  | nil => exact ⟨drive, by rw [List.append_nil]; rfl⟩
  | cons v vs ih =>
    rw [List.length_cons] at h
    obtain ⟨drive', hvs⟩ := ih v (bits := bits ++ [v]) (by simp; omega)
    rw [List.append_assoc] at hvs
    exact ⟨drive', acked_append (acked_sendBit r (by omega) true drive k v) hvs⟩

theorem byteOfBits_wireBits (b : Byte) : byteOfBits (wireBits b) = b := by
  refine BitVec.eq_of_getLsbD_eq fun i hi => ?_
  rw [byteOfBits, BitVec.getLsbD_setWidth, BitVec.getLsbD_ofBoolListLE, decide_eq_true hi, Bool.true_and]
  simp [wireBits, List.getD_eq_getElem?_getD, hi]

/-- R162: the fall of CLK after the eighth bit takes the byte and pulls DIO low, and the next one ends the pull. -/
theorem acked_ackClock {r r' : Receiver} {k k' : FrameKind} {b : Byte} (h : r.Takes k b r' k') (drive : Bool) :
    (r.inFrame true drive false (wireBits b) k).acked ackClock = some (r'.inFrame false false false [] k') := by
  have hfall : (r.inFrame true drive false (wireBits b) k).clock false =
      some (r'.inFrame false drive true (wireBits b) k') := by
    have hclock : (r.inFrame true drive false (wireBits b) k).clock false =
        (r.inFrame false drive true (wireBits b) k).take { bits := wireBits b, kind := k }
          (byteOfBits (wireBits b)) := rfl
    rw [hclock, byteOfBits_wireBits]
    exact h false drive true (wireBits b)
  have hread : (r'.inFrame true true true (wireBits b) k').acked [.read .dio] =
      some (r'.inFrame true true true (wireBits b) k') := rfl
  exact acked_append (acked_append (acked_append (acked_append (acked_append (acked_clk hfall) (acked_dio rfl))
    (acked_clk rfl)) hread) (acked_dio rfl)) (acked_clk rfl)

/-- R161 to R163: a byte that the receiver takes leaves it between two bytes, with CLK and DIO low. -/
theorem acked_sendByte {r r' : Receiver} {k k' : FrameKind} {b : Byte} (h : r.Takes k b r' k') (clk drive : Bool) :
    (r.inFrame clk drive false [] k).acked (sendByte b) = some (r'.inFrame false false false [] k') := by
  have hfirst := acked_sendBit r (bits := []) (by decide) clk drive k (b.getLsbD 0)
  obtain ⟨drive', hrest⟩ := acked_bits r k (wireBits b).tail (bits := [b.getLsbD 0]) (b.getLsbD 0) (by simp [wireBits])
  exact acked_append (acked_append hfirst hrest) (acked_ackClock h drive')

/-- R163: the data bytes of an address frame are stored one after the other. -/
theorem acked_dataBytes {r : Receiver} (hmode : r.dataMode = true) {done bytes : List Byte}
    (hstored : r.stored = done.map some ++ List.replicate bytes.length none) :
    (r.inFrame false false false [] (.address done.length)).acked (bytes.flatMap sendByte) =
      some ({ r with stored := (done ++ bytes).map some }.inFrame false false false []
        (.address (done.length + bytes.length))) := by
  induction bytes generalizing r done with
  | nil =>
    have hdone : r.stored = (done ++ []).map some := by simpa using hstored
    rw [← hdone]
    rfl
  | cons b bytes ih =>
    have hfirst := acked_sendByte (takes_data (p := done.length) hmode (by simp [hstored]) b) false false
    have hrest := ih (r := { r with stored := r.stored.set done.length (some b) }) (done := done ++ [b]) hmode
      (by simp [hstored, List.replicate_succ])
    have hall := acked_append hfirst (by simpa using hrest)
    simpa [Nat.add_assoc, Nat.add_comm 1] using hall

/-! ### A frame and a whole update (R160, R164) -/

/-- What a receiver knows once a frame of kind `k` has ended, on an idle bus. -/
def Receiver.stopped (r : Receiver) (k : FrameKind) : Receiver :=
  { r with
    clk := true, drive := true, pull := false, current := none, shown := r.shownAfter { bits := [], kind := k } }

theorem stopped_atRest (r : Receiver) (k : FrameKind) : (r.stopped k).AtRest := ⟨rfl, rfl, rfl, rfl⟩

/-- R160: a fall of DIO on an idle bus opens a frame, and from then on it is not known what the display shows. -/
theorem acked_startSeq {r : Receiver} (h : r.AtRest) :
    r.acked startSeq = some ({ r with shown := none }.inFrame true false false [] .empty) := by
  obtain ⟨hclk, hdrive, hpull, hcur⟩ := h
  exact acked_dio (by simp [Receiver.data, Receiver.dioLevel, Receiver.inFrame, hclk, hdrive, hpull, hcur])

/-- R161: STOP discards the bit that its rise of CLK has sampled. -/
theorem acked_stopSeq (r : Receiver) (k : FrameKind) :
    (r.inFrame false false false [] k).acked stopSeq = some (r.stopped k) := by
  have hclk : (r.inFrame false false false [] k).clock true = some (r.inFrame true false false [false] k) := rfl
  have hstop : (r.inFrame true false false [false] k).data true = some (r.stopped k) := rfl
  exact acked_append (acked_append (acked_dio rfl) (acked_clk hclk)) (acked_dio hstop)

theorem acked_frame {r r' : Receiver} {k : FrameKind} {bytes : List Byte} (h : r.AtRest)
    (hbytes : ({ r with shown := none }.inFrame true false false [] .empty).acked (bytes.flatMap sendByte) =
      some (r'.inFrame false false false [] k)) :
    r.acked (frame bytes) = some (r'.stopped k) :=
  acked_append (acked_append (acked_startSeq h) hbytes) (acked_stopSeq r' k)

/-- R163: the data mode is set, with nothing stored yet. -/
theorem acked_modeFrame {r : Receiver} (h : r.AtRest) :
    ∃ r', r.acked (frame [0x40#8]) = some r' ∧ r'.AtRest ∧ r'.dataMode = true ∧ r'.stored = nothingStored := by
  have hbyte := acked_sendByte (takes_mode { r with shown := none }) true false
  exact ⟨_, acked_frame h (acked_append hbyte rfl), stopped_atRest _ _, rfl, rfl⟩

/-- R163: the four data bytes are stored from position 0 on. -/
theorem acked_addressFrame {r : Receiver} (h : r.AtRest) (hmode : r.dataMode = true)
    (hstored : r.stored = nothingStored) {bytes : List Byte} (hlen : bytes.length = 4) :
    ∃ r', r.acked (frame (0xC0#8 :: bytes)) = some r' ∧ r'.AtRest ∧ r'.stored = bytes.map some := by
  have haddress := acked_sendByte (takes_address { r with shown := none }) true false
  have hdata := acked_dataBytes (r := { r with shown := none }) hmode (done := []) (bytes := bytes)
    (by rw [hlen]; exact hstored)
  exact ⟨_, acked_frame h (acked_append haddress hdata), stopped_atRest _ _, rfl⟩

/-- R164: the display is on at brightness 7 and shows the four bytes stored. -/
theorem acked_controlFrame {r : Receiver} (h : r.AtRest) {bytes : List Byte} (hstored : r.stored = bytes.map some) :
    ∃ r', r.acked (frame [0x8F#8]) = some r' ∧ r'.AtRest ∧ r'.shown = some { bytes := bytes, brightness := 7 } := by
  have hbyte := acked_sendByte (takes_control { r with shown := none }) true false
  exact ⟨_, acked_frame h (acked_append hbyte rfl), stopped_atRest _ _,
    by simp [Receiver.stopped, Receiver.shownAfter, hstored]⟩

theorem acked_updateSeq {r : Receiver} (h : r.AtRest) {bytes : List Byte} (hlen : bytes.length = 4) :
    ∃ r', r.acked (updateSeq bytes) = some r' ∧ r'.AtRest ∧ r'.shown = some { bytes := bytes, brightness := 7 } := by
  obtain ⟨r₁, h₁, hrest₁, hmode, hnothing⟩ := acked_modeFrame h
  obtain ⟨r₂, h₂, hrest₂, hstored⟩ := acked_addressFrame hrest₁ hmode hnothing hlen
  obtain ⟨r₃, h₃, hrest₃, hshown⟩ := acked_controlFrame hrest₂ hstored
  exact ⟨r₃, acked_append (acked_append h₁ h₂) h₃, hrest₃, hshown⟩

/-- The three display commands, each with the data bytes it sends. -/
theorem displaySeq_of_dataBytes {i : Instr} {bytes : List Byte} {v : Word}
    (h : (i, bytes) ∈ [(.setSegments, setSegmentsBytes v), (.showDigits, showDigitsBytes Config.seg v),
      (.showBlanked, showBlankedBytes Config.seg v)]) :
    displaySeq i v = some (updateSeq bytes) := by
  simp only [List.mem_cons, Prod.mk.injEq, List.not_mem_nil, or_false] at h
  rcases h with ⟨rfl, rfl⟩ | ⟨rfl, rfl⟩ | ⟨rfl, rfl⟩ <;> rfl

/-- Settles O46: the command runs its update to the end (`display_completes`), and the receiver that watches it shows
the four bytes (`acked_updateSeq`). -/
theorem receiverShowsBytesSent : Obligations.ReceiverShowsBytesSent := by
  intro s i answers r b0 b1 b2 b3 hr hl hlen hnf hack hrest hmem
  have hseq := displaySeq_of_dataBytes hmem
  obtain ⟨t, ht, hrun⟩ := display_completes hseq hr hl hlen hnf
  obtain ⟨r', hwatch, hrest', hshown⟩ := acked_updateSeq hrest (bytes := [b0, b1, b2, b3]) rfl
  have hops : (updateSeq [b0, b1, b2, b3]).length ≤ answers.length := by rw [length_displaySeq hseq]; omega
  exact ⟨t, _, updateTrace [b0, b1, b2, b3] answers, r', ht, hrun, rfl,
    (watch_zipWith_displayEvent r _ hops hack).trans hwatch, hrest', hshown⟩

end Sys2Proof.Machine

namespace Sys2Proof.Machine

/-! ### The layout of a byte and of an update (R123, R131) -/

/-- In a sequence made of parts, part `k` stands where the parts before it end. -/
theorem extract_flatten {α : Type} {parts : List (List α)} {lengths : List Nat} {x : List α} {start stop : Nat}
    (hlengths : parts.map List.length = lengths) (k : Nat) (hx : parts[k]? = some x)
    (hstart : (lengths.take k).sum = start) (hstop : (lengths.take (k + 1)).sum = stop) :
    parts.flatten.extract start stop = x := by
  obtain ⟨hk, rfl⟩ := List.getElem?_eq_some_iff.mp hx
  subst hlengths hstart hstop
  rw [List.extract_eq_take_drop, ← List.drop_take, List.drop_take_succ_flatten_eq_getElem parts k hk]

/-- Settles O21: each of the eight bits stands at a fixed position, whatever the byte. -/
theorem sendByteLayout : Obligations.SendByteLayout := by
  intro b
  refine ⟨fun i hi => ?_, rfl, length_sendByte b, rfl, rfl, fun d => after_sendByte d b⟩
  interval_cases i <;> rfl

/-- The parts of SET_SEGMENTS, frame by frame: START, the bytes, STOP. -/
def updateParts (b0 b1 b2 b3 : Byte) : List (List MicroOp) :=
  [startSeq, sendByte 0x40#8, stopSeq,
    startSeq, sendByte 0xC0#8, sendByte b0, sendByte b1, sendByte b2, sendByte b3, stopSeq,
    startSeq, sendByte 0x8F#8, stopSeq]

theorem flatten_updateParts (b0 b1 b2 b3 : Byte) :
    (updateParts b0 b1 b2 b3).flatten = updateSeq [b0, b1, b2, b3] := by
  simp [updateParts, updateSeq, frame]

theorem lengths_updateParts (b0 b1 b2 b3 : Byte) :
    (updateParts b0 b1 b2 b3).map List.length = [2, 59, 6, 2, 59, 59, 59, 59, 59, 6, 2, 59, 6] := rfl

theorem idxsOf_read_bits (bits : List Bool) (n : Nat) : (bits.flatMap sendBit).idxsOf (.read .dio) n = [] := by
  refine List.idxsOf_eq_nil_iff.mpr fun m hm => ?_
  obtain ⟨v, _, hv⟩ := List.mem_flatMap.mp hm
  fin_cases hv <;> rfl

/-- R123: the acknowledgment read is the one read of a byte. -/
theorem idxsOf_read_sendByte (b : Byte) (n : Nat) : (sendByte b).idxsOf (.read .dio) n = [n + 54] := by
  rw [sendByte, List.idxsOf, List.findIdxs_append, ← List.idxsOf, ← List.idxsOf, idxsOf_read_bits]
  rfl

/-- R131: a part of the update stands where the lengths of the parts before it add up to. -/
theorem extract_updateSeq {b0 b1 b2 b3 : Byte} {x : List MicroOp} {start stop : Nat} (k : Nat)
    (hx : (updateParts b0 b1 b2 b3)[k]? = some x)
    (hstart : ([2, 59, 6, 2, 59, 59, 59, 59, 59, 6, 2, 59, 6].take k).sum = start)
    (hstop : ([2, 59, 6, 2, 59, 59, 59, 59, 59, 6, 2, 59, 6].take (k + 1)).sum = stop) :
    (updateSeq [b0, b1, b2, b3]).extract start stop = x := by
  rw [← flatten_updateParts]
  exact extract_flatten (lengths_updateParts b0 b1 b2 b3) k hx hstart hstop

theorem idxsOf_read_updateSeq (b0 b1 b2 b3 : Byte) :
    (updateSeq [b0, b1, b2, b3]).idxsOf (.read .dio) = [56, 123, 182, 241, 300, 359, 426] := by
  have hstart (n : Nat) : startSeq.idxsOf (.read .dio) n = [] := rfl
  have hstop (n : Nat) : stopSeq.idxsOf (.read .dio) n = [] := rfl
  have hcat (p q : List MicroOp) (n : Nat) : (p ++ q).idxsOf (.read .dio) n =
    p.idxsOf (.read .dio) n ++ q.idxsOf (.read .dio) (n + p.length) := List.findIdxs_append
  rw [← flatten_updateParts]
  simp [updateParts, hcat, hstart, hstop, idxsOf_read_sendByte, length_sendByte, show startSeq.length = 2 from rfl,
    show stopSeq.length = 6 from rfl]

/-- R131: where the acknowledgment reads are. -/
theorem read_mem_updateSeq_iff (b0 b1 b2 b3 : Byte) (n : Nat) :
    (updateSeq [b0, b1, b2, b3])[n]? = some (.read .dio) ↔ n ∈ [56, 123, 182, 241, 300, 359, 426] := by
  rw [← idxsOf_read_updateSeq b0 b1 b2 b3, List.mem_idxsOf_iff_exists_getElem_pos, List.getElem?_eq_some_iff]
  simp only [beq_iff_eq]

/-- Settles O22: the sequence is an update of the four lanes of the operand, whose parts are `updateParts`. -/
theorem updateLayout : Obligations.UpdateLayout := by
  intro v
  have hseq : setSegmentsSeq v =
      updateSeq [v.extractLsb' 0 8, v.extractLsb' 8 8, v.extractLsb' 16 8, v.extractLsb' 24 8] := rfl
  rw [hseq]
  exact ⟨extract_updateSeq 0 rfl rfl rfl, extract_updateSeq 1 rfl rfl rfl, extract_updateSeq 2 rfl rfl rfl,
    extract_updateSeq 3 rfl rfl rfl, extract_updateSeq 4 rfl rfl rfl, extract_updateSeq 5 rfl rfl rfl,
    extract_updateSeq 6 rfl rfl rfl, extract_updateSeq 7 rfl rfl rfl, extract_updateSeq 8 rfl rfl rfl,
    extract_updateSeq 9 rfl rfl rfl, extract_updateSeq 10 rfl rfl rfl, extract_updateSeq 11 rfl rfl rfl,
    extract_updateSeq 12 rfl rfl rfl, read_mem_updateSeq_iff _ _ _ _⟩

/-! ### Counting the micro-operations of an update (R134) -/

/-- Where every byte counts `n`, an update counts START and STOP three times and `n` for each of its seven bytes. -/
theorem countP_updateSeq (p : MicroOp → Bool) {n : Nat} (hn : ∀ b, (sendByte b).countP p = n) {bytes : List Byte}
    (h : bytes.length = 4) :
    (updateSeq bytes).countP p = 3 * (startSeq.countP p + stopSeq.countP p) + 7 * n := by
  have hframe (bs : List Byte) :
      (frame bs).countP p = startSeq.countP p + bs.length * n + stopSeq.countP p := by
    have hconst : List.countP p ∘ sendByte = fun _ => n := funext hn
    have hbytes : (bs.flatMap sendByte).countP p = bs.length * n := by
      rw [List.countP_flatMap, hconst, List.map_const', List.sum_replicate, smul_eq_mul]
    rw [frame, List.countP_append, List.countP_append, hbytes]
  simp only [updateSeq, List.countP_append, hframe, List.length_cons, List.length_nil, h]
  ring

/-- Settles O23: each sequence is an update of four bytes, and a byte has 1 read, 29 delays and 29 writes. -/
theorem updateLengthAndDuration : Obligations.UpdateLengthAndDuration := by
  intro v q hq
  obtain ⟨bytes, hlen, rfl⟩ : ∃ bytes : List Byte, bytes.length = 4 ∧ q = updateSeq bytes := by
    simp only [List.mem_cons, List.not_mem_nil, or_false] at hq
    rcases hq with rfl | rfl | rfl
    · exact displaySeq_eq_updateSeq (i := .setSegments) rfl
    · exact displaySeq_eq_updateSeq (i := .showDigits) rfl
    · exact displaySeq_eq_updateSeq (i := .showBlanked) rfl
  have hdelays : (updateSeq bytes).count .delay = 215 := countP_updateSeq _ (n := 29) (fun _ => rfl) hlen
  refine ⟨length_updateSeq hlen, countP_updateSeq _ (n := 1) (fun _ => rfl) hlen, hdelays, ?_, ?_⟩
  · rw [← List.countP_eq_length_filter]
    exact countP_updateSeq _ (n := 29) (fun _ => rfl) hlen
  · rw [minDuration, hdelays]

/-- Settles O24: STOP alone, and an update, whose last frame ends with a STOP. -/
theorem updateLeavesBusIdle : Obligations.UpdateLeavesBusIdle :=
  ⟨after_stopSeq, after_updateSeq⟩

/-! ### Where DIO changes while CLK is high (R125) -/

/-- The level to which a micro-operation made in drive states `d` changes DIO while CLK is released, if it does. -/
def dataEdge (d : Drive) : MicroOp → Option Bool
  | .write .dio v => if d.clk && d.dio != v then some v else none
  | .write _ _ | .read _ | .delay => none

/-- The changes of DIO under a released CLK in a sequence that starts at index `n` from drive states `d`: the index and
the new level of each. -/
def dataEdges (n : Nat) (d : Drive) : List MicroOp → List (Nat × Bool)
  | [] => []
  | m :: ops => (dataEdge d m).toList.map (n, ·) ++ dataEdges (n + 1) (d.after [m]) ops

theorem dataEdge_eq_some_iff {d : Drive} {m : MicroOp} {v : Bool} :
    dataEdge d m = some v ↔ m = .write .dio v ∧ d.clk = true ∧ d.dio ≠ v := by
  cases m with
  | write l w =>
    cases l
    case dio =>
      simp only [dataEdge, MicroOp.write.injEq, true_and]
      grind
    all_goals simp [dataEdge]
  | read l => simp [dataEdge]
  | delay => simp [dataEdge]

theorem mem_dataEdges {n k : Nat} {d : Drive} {ops : List MicroOp} {v : Bool} :
    (k, v) ∈ dataEdges n d ops ↔
      ∃ i m, k = n + i ∧ ops[i]? = some m ∧ dataEdge (d.after (ops.take i)) m = some v := by
  induction ops generalizing n d with
  | nil => simp [dataEdges]
  | cons m ops ih =>
    have hhead (x : Option Bool) : (k, v) ∈ x.toList.map (n, ·) ↔ k = n ∧ x = some v := by
      cases x <;> simp [eq_comm, and_comm]
    have hstep (i : Nat) : d.after ((m :: ops).take (i + 1)) = (d.after [m]).after (ops.take i) :=
      after_append d [m] (ops.take i)
    rw [dataEdges, List.mem_append, ih, hhead]
    refine (or_congr ?_ (exists_congr fun i => ?_)).trans Nat.or_exists_add_one
    · simp
    · simp only [hstep, List.getElem?_cons_succ, Nat.add_assoc, Nat.add_comm 1]

theorem mem_dataEdges_zero {n : Nat} {d : Drive} {ops : List MicroOp} {v : Bool} :
    (n, v) ∈ dataEdges 0 d ops ↔
      ops[n]? = some (.write .dio v) ∧ (d.after (ops.take n)).clk = true ∧ (d.after (ops.take n)).dio ≠ v := by
  simp [mem_dataEdges, dataEdge_eq_some_iff]

theorem dataEdges_append (n : Nat) (d : Drive) (p q : List MicroOp) :
    dataEdges n d (p ++ q) = dataEdges n d p ++ dataEdges (n + p.length) (d.after p) q := by
  induction p generalizing n d with
  | nil => rfl
  | cons m p ih =>
    have hstep : d.after (m :: p) = (d.after [m]).after p := after_append d [m] p
    rw [List.cons_append, dataEdges, dataEdges, ih, hstep, List.append_assoc, List.length_cons, Nat.add_assoc,
      Nat.add_comm 1]

theorem dataEdges_bits (n : Nat) (d : Drive) (bits : List Bool) : dataEdges n d (bits.flatMap sendBit) = [] := by
  induction bits generalizing n d with
  | nil => rfl
  | cons b bits ih =>
    rw [List.flatMap_cons, dataEdges_append, ih, List.append_nil]
    rfl

/-- R125: in a byte, DIO changes under a released CLK after the acknowledgment read only. -/
theorem dataEdges_sendByte (n : Nat) (d : Drive) (b : Byte) : dataEdges n d (sendByte b) = [(n + 55, false)] := by
  rw [sendByte, dataEdges_append, dataEdges_bits]
  rfl

theorem dataEdges_bytes (n : Nat) (d : Drive) (bytes : List Byte) :
    dataEdges n d (bytes.flatMap sendByte) = (List.range bytes.length).map fun i => (n + 59 * i + 55, false) := by
  induction bytes generalizing n d with
  | nil => rfl
  | cons b bytes ih =>
    rw [List.flatMap_cons, dataEdges_append, dataEdges_sendByte, ih, length_sendByte, List.length_cons,
      List.range_succ_eq_map, List.map_cons, List.map_map]
    simp only [Function.comp_def, Nat.succ_eq_add_one, List.cons_append, List.nil_append]
    congr 2
    funext i
    congr 1
    ring

theorem after_bytes_cons (d : Drive) (b : Byte) (bytes : List Byte) :
    d.after ((b :: bytes).flatMap sendByte) = { d with clk := false, dio := false } := by
  induction bytes generalizing d b with
  | nil => rw [List.flatMap_cons, List.flatMap_nil, List.append_nil, after_sendByte]
  | cons b' bytes ih => rw [List.flatMap_cons, after_append, after_sendByte, ih]

/-- R125: on an idle bus a frame has the two changes of START and STOP beside those of its bytes. -/
theorem dataEdges_frame (n : Nat) {d : Drive} (hd : d.BusIdle) (b : Byte) (bytes : List Byte) :
    dataEdges n d (frame (b :: bytes)) =
      (n, false) :: ((List.range (bytes.length + 1)).map fun i => (n + 2 + 59 * i + 55, false)) ++
        [(n + 59 * (bytes.length + 1) + 6, true)] := by
  obtain ⟨hclk, hdio⟩ := hd
  have hstart : dataEdges n d startSeq = [(n, false)] := by
    simp [startSeq, writeHold, dataEdges, dataEdge, hclk, hdio]
  have hstop (k : Nat) (e : Drive) : dataEdges k { e with clk := false, dio := false } stopSeq = [(k + 4, true)] := rfl
  have hlast : n + (startSeq ++ (b :: bytes).flatMap sendByte).length + 4 = n + 59 * (bytes.length + 1) + 6 := by
    rw [List.length_append, length_bytes, List.length_cons, show startSeq.length = 2 from rfl]
    omega
  rw [frame, dataEdges_append, dataEdges_append, hstart, dataEdges_bytes, after_append, after_bytes_cons, hstop, hlast]
  rfl

/-- R125, R131: the changes in an update of four bytes. -/
theorem dataEdges_updateSeq (b0 b1 b2 b3 : Byte) :
    dataEdges 0 Drive.idle (updateSeq [b0, b1, b2, b3]) =
      [(0, false), (57, false), (65, true), (67, false), (124, false), (183, false), (242, false), (301, false),
        (360, false), (368, true), (370, false), (427, false), (435, true)] := by
  have hidle : Drive.idle.BusIdle := ⟨rfl, rfl⟩
  have hframe (bytes : List Byte) : Drive.idle.after (frame bytes) = Drive.idle := after_frame _ bytes
  rw [updateSeq, dataEdges_append, dataEdges_append, after_append, hframe, hframe, dataEdges_frame _ hidle,
    dataEdges_frame _ hidle, dataEdges_frame _ hidle, List.length_append, length_frame, length_frame]
  simp [List.range_succ]

/-- Settles O25: the condition says that index `n` is one of the changes listed by `dataEdges_updateSeq`. -/
theorem dataChangesUnderHighClock : Obligations.DataChangesUnderHighClock := by
  intro b0 b1 b2 b3 n v
  refine mem_dataEdges_zero.symm.trans ?_
  rw [dataEdges_updateSeq]
  cases v with
  | false =>
    simp only [List.mem_cons, List.not_mem_nil, Prod.mk.injEq, and_true, true_and, reduceCtorEq, and_false, false_and,
      or_false, false_or]
    omega
  | true => simp

/-! ### The digit encoder and the blanking rule (R140 to R152) -/

/-- R140: bit 7 of every entry of the table is 0. -/
theorem getLsbD_seg_seven (d : Nibble) : (Config.seg d).getLsbD 7 = false := by
  unfold Config.seg
  split_ifs
  · rfl
  · rw [BitVec.getLsbD_setWidth, BitVec.getLsbD_of_ge _ _ le_rfl, Bool.and_false]

theorem seg_blank : Config.seg 10#4 = 0x00#8 := rfl

/-- R143: the separator is bit 7 and no other. -/
theorem separator_low (i : Nat) : (separator i).extractLsb' 0 7 = 0#7 := by
  unfold separator
  split_ifs <;> decide

theorem getLsbD_separator_seven (i : Nat) : (separator i).getLsbD 7 = decide (i = 1) := by
  unfold separator
  split_ifs with h
  · rw [decide_eq_true h]; rfl
  · rw [decide_eq_false h]; rfl

/-- Settles O26: the separator is bit 7, which the table leaves clear. -/
theorem encoderSetsSeparatorAtPositionOne : Obligations.EncoderSetsSeparatorAtPositionOne := by
  intro d i
  refine ⟨?_, ?_, seg_blank⟩
  · rw [enc, BitVec.extractLsb'_or, separator_low, BitVec.or_zero]
  · rw [enc, BitVec.getLsbD_or, getLsbD_seg_seven, getLsbD_separator_seven, Bool.false_or, decide_eq_true_iff]

/-- Settles O27: an operand's lanes read back what `packSeg4` and `packDig4` pack. -/
theorem showCommandsReuseTheSetSegmentsSequence : Obligations.ShowCommandsReuseTheSetSegmentsSequence := by
  refine ⟨fun v => ?_, fun v e0 e1 e2 e3 hblank => ?_⟩
  · rw [setSegmentsSeq, setSegmentsBytes, seg4_packSeg4]
    rfl
  · have hdig : blank (dig4 v) = [e0, e1, e2, e3] := hblank
    rw [showBlankedSeq, showBlankedBytes, hdig, showDigitsSeq, showDigitsBytes, dig4_packDig4]

/-- R151: position `i` is blanked if it is not the last and all digits up to it are 0. -/
theorem getElem?_blank {ds : List Nibble} {i : Nat} {d : Nibble} (h : ds[i]? = some d) :
    (blank ds)[i]? = some (if i + 1 < ds.length ∧ ∀ j ≤ i, ds[j]? = some 0#4 then 10#4 else d) := by
  induction ds using blank.induct generalizing i d with
  | case1 => simp at h
  | case2 e =>
    rw [if_neg (by simp)]
    exact h
  | case3 ds hds ih =>
    have hpos : 0 < ds.length := List.length_pos_iff.mpr hds
    have hblank : blank (0#4 :: ds) = 10#4 :: blank ds := by simp [blank]
    rw [hblank]
    cases i with
    | zero => simp [hpos]
    | succ i =>
      have hzeros : (∀ j ≤ i + 1, (0#4 :: ds)[j]? = some 0#4) ↔ ∀ j ≤ i, ds[j]? = some 0#4 :=
        ⟨fun hj j hle => hj (j + 1) (by omega), fun hj j hle => by
          cases j with
          | zero => rfl
          | succ j => exact hj j (by omega)⟩
      simpa [hzeros] using ih h
  | case4 e ds hds he =>
    have hblank : blank (e :: ds) = e :: ds := by simp [blank, he]
    rw [hblank, if_neg fun hc => he (by simpa using hc.2 0 i.zero_le)]
    exact h

/-- Settles O28: a digit is blanked or kept (`getElem?_blank`), never dropped (`length_blank`). -/
theorem blankingStopsAtFirstNonzeroDigit : Obligations.BlankingStopsAtFirstNonzeroDigit :=
  fun ds => ⟨length_blank ds, fun _ _ h => getElem?_blank h⟩

/-- R143: a blanked position 1 shows the separator alone. -/
theorem enc_blank_one : enc Config.seg 10#4 1 = 0x80#8 := by decide

/-- Settles O29: of an operand whose first two digits are 0, position 1 is blanked (`getElem?_blank`). -/
theorem blankingCornerCases : Obligations.BlankingCornerCases := by
  refine ⟨rfl, rfl, rfl, fun v h0 h1 => ?_⟩
  have hzeros : ∀ j ≤ 1, (dig4 v)[j]? = some 0#4 := by
    intro j hj
    interval_cases j
    · exact congrArg some h0
    · exact congrArg some h1
  have hblank : (blank (dig4 v))[1]? = some 10#4 := by
    rw [getElem?_blank (hzeros 1 le_rfl), if_pos ⟨by simp [dig4], hzeros⟩]
  rw [showBlankedBytes, encDigits, List.getElem?_mapIdx, hblank, Option.map_some, enc_blank_one]

end Sys2Proof.Machine

namespace Sys2Proof.Machine

/-! ### Key indices and their encodings (R26, R27, R171, R187) -/

/-- R26: no key is encoded as 0. -/
@[simp] theorem encKey_none : encKey none = 0#32 := rfl

theorem encKey_some (k : Key) : encKey (some k) = BitVec.ofNat 32 (0x10 + k.val) := by
  revert k
  decide

theorem keyEvent_eq_ofNat (k : Key) :
    keyEvent k = BitVec.ofNat 32 (0x100 + 16 * ((k.val + 1) % 10) + k.val) := by
  revert k
  decide

/-- R28: `DECKEY` reads back what `ENCKEY` wrote. -/
theorem decKey_encKey (k : Option Key) : decKey (encKey k) = k.map keyBits := by
  revert k
  decide

theorem toNat_keyBits (k : Key) : (keyBits k).toNat = k.val := by
  rw [keyBits, BitVec.toNat_ofNat]
  omega

theorem keyBits_injective : Function.Injective keyBits := fun k k' h =>
  Fin.ext (by rw [← toNat_keyBits k, h, toNat_keyBits])

/-- Settles O47: the encodings are `encKey_some` and `keyEvent_eq_ofNat`, read back by `decKey_encKey`. -/
theorem keyEncodings : Obligations.KeyEncodings :=
  ⟨fun _ _ => rfl, encKey_none, decKey_encKey none,
    fun k => ⟨encKey_some k, decKey_encKey (some k), keyEvent_eq_ofNat k⟩, by decide⟩

/-- R185: the previous sample is key `k` when `PRESENT` is set and `KEY` is its index. -/
theorem decKey_eq_some_keyBits_iff (w : Word) (k : Key) :
    decKey w = some (keyBits k) ↔ w.getLsbD 4 = true ∧ w.toNat % 16 = k.val := by
  have hfield : w.extractLsb' 0 4 = keyBits k ↔ w.toNat % 16 = k.val := by
    rw [← BitVec.toNat_inj, BitVec.extractLsb'_toNat, toNat_keyBits]
    simp
  rw [decKey, ← hfield]
  cases w.getLsbD 4 <;> simp

/-- R185, R186: a poll reports the key it sees unless the previous sample was that key. -/
theorem pollEvent_some (k : Key) (prev : Word) :
    pollEvent (some k) prev = if decKey prev = some (keyBits k) then 0#32 else keyEvent k := by
  simp only [pollEvent, accepted, Option.isSome_some, Bool.true_and, Option.map_some, bne_iff_ne, ne_eq,
    eq_comm (a := some (keyBits k)), ite_not]

/-! ### DEB_CLEAR (R190) -/

/-- The completion step of a job at its end, after which the engine's turns pass. -/
theorem engineRun_complete {s : State} {j : Job} (hr : s.Running) (hj : jobOf s.curOp = some j)
    (hn : nextOp j s = none) (a : Answer) (rest : List Answer) :
    engineRun (a :: rest) s = .next (complete j s) := by
  have hrest : ¬ (complete j s).Running := fun h => by simpa [(complete_ready hr.2 j).1] using h.1
  simp only [engineRun, engineTurn_running hr, engineStep_complete hj hn]
  exact engineRun_not_running rest hrest

/-- A completed command leaves the status of the ready block that accepted it. -/
theorem status_release {s : State} (hr : s.Ready) : { s.status with busy := false } = s.status := by
  rw [← hr.1]

/-- Settles O43: the accepted command has no micro-operation, so the one turn is its completion step. -/
theorem debClearCompletes : Obligations.DebClearCompletes := by
  intro s a hr
  refine ⟨accept 0x12#8 s, exec_of_legal hr rfl, rfl, ?_⟩
  rw [engineRun_complete (j := .command .debClear) (accept_running hr _) rfl rfl]
  simp [complete, finish, debClearCommit, accept, status_release hr]

/-! ### The lines of each family (R177, R120, R207) -/

/-- R207: a micro-operation moves no line but the one it writes, whether it succeeds or fails. -/
theorem microStep_get_other (c : Cause) {m : MicroOp} {k : OutLine} (hk : ∀ v, m ≠ .write k v) (a : Answer)
    (s : State) : (microStep c m a s).drive.get k = s.drive.get k := by
  have hset {l : OutLine} {v : Bool} (hm : m = .write l v) (w : Bool) : (s.drive.set l w).get k = s.drive.get k :=
    get_set_other _ _ _ _ fun e => hk v (e ▸ hm)
  rcases microStep_cases c m a s with ⟨l, v, hm, _, h⟩ | ⟨l, v, hm, _, h⟩ | ⟨l, _, _, h⟩ | ⟨l, _, _, h⟩ | ⟨_, h⟩
  · rw [h]; exact hset hm v
  · rw [h]; exact hset hm a.held
  all_goals rw [h]; rfl

theorem perform_get_other (j : Job) {m : MicroOp} {k : OutLine} (hk : ∀ v, m ≠ .write k v) (a : Answer)
    (s : State) : (perform j m a s).drive.get k = s.drive.get k := by
  rcases j with _ | i
  · exact microStep_get_other .ioInit hk a s
  · cases i
    case scan | poll =>
      obtain ⟨key, hit, hn⟩ := scanNote_eq m a s
      refine (microStep_get_other .ioDrive hk a _).trans ?_
      split_ifs
      · rfl
      · rw [hn]
    all_goals exact microStep_get_other .ioDrive hk a s

/-- A job that never writes line `k` leaves it in each of its engine turns. -/
theorem engineTurn_get_other {s t : State} {a : Answer} {j : Job} {k : OutLine} (hj : jobOf s.curOp = some j)
    (hk : ∀ l v, nextOp j s = some (.write l v) → l ≠ k) (h : engineTurn a s = .next t) :
    t.drive.get k = s.drive.get k := by
  rcases engineTurn_cases h with ⟨_, hstep⟩ | ⟨_, rfl⟩
  · obtain ⟨j', hj', hcases⟩ := engineStep_cases hstep
    obtain rfl : j = j' := Option.some.inj (hj.symm.trans hj')
    rcases hcases with ⟨m, hm, rfl⟩ | ⟨_, rfl⟩
    · exact perform_get_other j (fun v hw => hk k v (hw ▸ hm) rfl) a s
    · rw [complete_drive]
  · rfl

/-- R34: the four lines of the keypad. -/
def OutLine.isRow : OutLine → Bool
  | .clk | .dio => false
  | .row0 | .row1 | .row2 | .row3 => true

theorem isRow_rowLine (r : Fin 4) : (rowLine r).isRow = true := by
  revert r
  decide

/-- R177: a keypad command writes rows only. -/
theorem isRow_of_keypad {i : Instr} (hi : i = .scan ∨ i = .poll ∨ i = .debClear) {s : State} {l : OutLine} {v : Bool}
    (hm : nextOp (.command i) s = some (.write l v)) : l.isRow = true := by
  have hscan (h : scanNext s = some (.write l v)) : l.isRow = true := by
    obtain ⟨_, hop⟩ := scanNext_eq_some h
    obtain ⟨_, ⟨_, hw⟩ | ⟨_, _, hw⟩ | ⟨_, _, hw⟩⟩ := scanOpAt_cases hop <;> cases hw
    · exact isRow_rowLine _
    · exact isRow_rowLine _
  rcases hi with rfl | rfl | rfl
  · exact hscan hm
  · exact hscan hm
  · cases hm

/-- The micro-operation writes a display line or no line. -/
def MicroOp.sparesRows : MicroOp → Bool
  | .write l _ => !l.isRow
  | .read _ | .delay => true

/-- R120: an update writes the two display lines only. -/
theorem sparesRows_of_mem_updateSeq {bytes : List Byte} (h : bytes.length = 4) {m : MicroOp}
    (hm : m ∈ updateSeq bytes) : m.sparesRows = true := by
  have hcount : (updateSeq bytes).countP (fun m => !m.sparesRows) = 0 :=
    countP_updateSeq _ (n := 0) (fun _ => rfl) h
  simpa using List.countP_eq_zero.mp hcount m hm

/-- R120: a display command writes no row. -/
theorem isRow_eq_false_of_display {i : Instr} {s : State} {ops : List MicroOp} (h : displaySeq i s.argL = some ops)
    {l : OutLine} {v : Bool} (hm : nextOp (.command i) s = some (.write l v)) : l.isRow = false := by
  obtain ⟨bytes, hlen, rfl⟩ := displaySeq_eq_updateSeq h
  rw [nextOp_display h] at hm
  simpa [MicroOp.sparesRows] using sparesRows_of_mem_updateSeq hlen (List.mem_of_getElem? hm)

/-- Settles O37: each turn keeps the lines its job never writes (`engineTurn_get_other`): those that are no row, of a
keypad command, and the rows, of a display command. -/
theorem familiesTouchOwnLinesOnly : Obligations.FamiliesTouchOwnLinesOnly := by
  intro s t a _ h
  refine ⟨fun hop => ?_, fun hop => ?_⟩
  · obtain ⟨i, hi, hop⟩ : ∃ i, (i = .scan ∨ i = .poll ∨ i = .debClear) ∧ s.curOp = Instr.opcode i := by
      rcases hop with h | h | h
      · exact ⟨.scan, by simp, h⟩
      · exact ⟨.poll, by simp, h⟩
      · exact ⟨.debClear, by simp, h⟩
    have hkeep (k : OutLine) (hk : k.isRow = false) : t.drive.get k = s.drive.get k :=
      engineTurn_get_other (by rw [hop, jobOf_opcode])
        (fun l v hm => ne_of_apply_ne OutLine.isRow (by simp [isRow_of_keypad hi hm, hk])) h
    exact ⟨hkeep .clk rfl, hkeep .dio rfl⟩
  · obtain ⟨i, ops, hseq, hop⟩ : ∃ i ops, displaySeq i s.argL = some ops ∧ s.curOp = i.opcode := by
      rcases hop with h | h | h
      · exact ⟨.setSegments, _, rfl, h⟩
      · exact ⟨.showDigits, _, rfl, h⟩
      · exact ⟨.showBlanked, _, rfl, h⟩
    have hkeep (k : OutLine) (hk : k.isRow = true) : t.drive.get k = s.drive.get k :=
      engineTurn_get_other (by rw [hop, jobOf_opcode])
        (fun l v hm => ne_of_apply_ne OutLine.isRow (by simp [isRow_eq_false_of_display hseq hm, hk])) h
    exact ⟨hkeep .row0 rfl, hkeep .row1 rfl, hkeep .row2 rfl, hkeep .row3 rfl⟩

/-! ### The micro-operations of a scan (R173, R175) -/

/-- R173: one row of a scan in which no column reads low. -/
def rowSeq (r : Fin 4) : List MicroOp :=
  [.write (rowLine r) false, .read (.col 0), .read (.col 1), .read (.col 2), .write (rowLine r) true]

/-- R173: the whole scan, if no column reads low. -/
def scanSeq : List MicroOp := [0, 1, 2, 3].flatMap rowSeq

/-- R175: until a column has read low, the scan performs `scanSeq` by its index. -/
theorem scanOpAt_searching (n : Nat) : scanOpAt n none = scanSeq[n]? := by
  by_cases hn : n < 20
  · interval_cases n <;> rfl
  · rw [List.getElem?_eq_none (show scanSeq.length ≤ n by simpa [scanSeq, rowSeq] using hn)]
    exact if_pos (by omega)

/-- R171, R175: each key is read at its own index. -/
theorem scanOpAt_readIndex (k : Key) :
    scanOpAt (readIndex k) none = some (.read (.col (Fin.ofNat 3 (k.val % 3)))) := by
  revert k
  decide

/-- R175: every read of a scan is the read of a key. -/
theorem exists_key_of_read {n : Nat} {l : InLine} (h : scanSeq[n]? = some (.read l)) : ∃ k : Key, readIndex k = n := by
  obtain ⟨hn, _⟩ := List.getElem?_eq_some_iff.mp h
  change n < 20 at hn
  interval_cases n <;> cases h <;> decide

theorem scanLength_some (k : Key) : scanLength (some k) = readIndex k + 1 + 1 := by
  change 5 * (k.val / 3) + k.val % 3 + 3 = 5 * (k.val / 3) + 1 + k.val % 3 + 1 + 1
  omega

theorem readIndex_lt (k : Key) : readIndex k < 19 := by
  unfold readIndex
  omega

/-- R174: the keys are read in row-major order. -/
theorem readIndex_mono : Monotone readIndex := by
  intro k k' h
  have hval : k.val ≤ k'.val := h
  have hrow : k.val / 3 ≤ k'.val / 3 := Nat.div_le_div_right hval
  unfold readIndex
  omega

/-- R173: the write that restores the row of the key just read. -/
theorem scanOpAt_found (k : Key) :
    scanOpAt (readIndex k + 1) (some k) = some (.write (rowLine (Fin.ofNat 4 (k.val / 3))) true) := by
  revert k
  decide

theorem keyOf_readIndex (k : Key) : keyOf (scanRow (readIndex k)) (Fin.ofNat 3 (k.val % 3)) = k := by
  revert k
  decide

/-- R40: what the operations of a scan append while every column reads high. -/
theorem getElem?_scanTrace_none {n : Nat} {m : MicroOp} (h : scanSeq[n]? = some m) {a : Answer}
    (hhigh : ∀ l, m = .read l → a.col = true) (d : Drive) :
    (scanTrace none)[n]? = some (successEvent m a d) := by
  obtain ⟨hn, _⟩ := List.getElem?_eq_some_iff.mp h
  change n < 20 at hn
  cases m with
  | write l v => interval_cases n <;> cases h <;> rfl
  | read l =>
    have hcol : true = a.col := (hhigh l rfl).symm
    interval_cases n <;> cases h <;> exact congrArg (fun v => some (Event.r _ v)) hcol
  | delay => interval_cases n <;> cases h

/-- R173: a scan that finds a key appends the events before its read, the read and the restoring write. -/
theorem scanTrace_some (k : Key) :
    scanTrace (some k) = (scanTrace none).take (readIndex k) ++
      [.r (.col (Fin.ofNat 3 (k.val % 3))) false] ++ [.w (rowLine (Fin.ofNat 4 (k.val / 3))) true] := by
  revert k
  decide

/-- R176: with all rows high before the scan, restoring the key's row leaves the lines as they were. -/
theorem after_scanSeq_restore {d : Drive} (h : d.RowsHigh) (k : Key) :
    (d.after (scanSeq.take (readIndex k))).set (rowLine (Fin.ofNat 4 (k.val / 3))) true = d := by
  obtain ⟨clk, dio, _, _, _, _⟩ := d
  obtain ⟨rfl, rfl, rfl, rfl⟩ := h
  fin_cases k <;> rfl

theorem after_scanSeq {d : Drive} (h : d.RowsHigh) : d.after scanSeq = d := by
  obtain ⟨clk, dio, _, _, _, _⟩ := d
  obtain ⟨rfl, rfl, rfl, rfl⟩ := h
  rfl

/-! ### The first low column (R174) -/

theorem firstLow_eq_none_iff {answers : List Answer} :
    firstLow answers = none ↔ ∀ k, readsLow answers k = false := by
  simp [firstLow, List.find?_eq_none]

theorem firstLow_eq_some_iff {answers : List Answer} {k : Key} :
    firstLow answers = some k ↔ readsLow answers k = true ∧ ∀ k' < k, readsLow answers k' = false := by
  rw [firstLow, ← Fin.find?_eq_find?_finRange, Fin.find?_eq_some_iff]

theorem readsLow_of_getElem? {answers : List Answer} {k : Key} {a : Answer} (h : answers[readIndex k]? = some a) :
    readsLow answers k = !a.col := by
  cases hc : a.col <;> simp [readsLow, h, hc]

/-! ### The run of a scan (R173 to R176) -/

/-- The command performs SCAN_SEQ. -/
def Scans (i : Instr) : Prop :=
  (∀ s, nextOp (.command i) s = scanNext s) ∧ ∀ m a s, perform (.command i) m a s = scanStep m a s

theorem scans_scan : Scans .scan := ⟨fun _ => rfl, fun _ _ _ => rfl⟩

theorem scans_poll : Scans .poll := ⟨fun _ => rfl, fun _ _ _ => rfl⟩

/-- The state before index `n` of a scan accepted in `s` in which no column has read low. -/
def State.searching (i : Instr) (n : Nat) (s : State) : State :=
  { accept i.opcode s with
    seqIdx := BitVec.ofNat 16 n
    drive := s.drive.after (scanSeq.take n)
    trace := s.trace ++ (scanTrace none).take n }

/-- The state before the write that restores the row of key `k`, whose column has read low. -/
def State.found (i : Instr) (k : Key) (s : State) : State :=
  { s.searching i (readIndex k) with
    seqIdx := BitVec.ofNat 16 (readIndex k + 1)
    scanHit := some k
    trace := s.trace ++ ((scanTrace none).take (readIndex k) ++ [.r (.col (Fin.ofNat 3 (k.val % 3))) false]) }

/-- The state before the completion step of a scan accepted in `s` with result `k`. -/
def State.scanned (i : Instr) (k : Option Key) (s : State) : State :=
  { accept i.opcode s with
    seqIdx := BitVec.ofNat 16 (scanLength k)
    kTmp := k
    trace := s.trace ++ scanTrace k }

theorem searching_zero (i : Instr) (s : State) : s.searching i 0 = accept i.opcode s := by
  simp [State.searching, accept]

theorem searching_seqIdx (i : Instr) {n : Nat} (hn : n < 65536) (s : State) : (s.searching i n).seqIdx.toNat = n :=
  Nat.mod_eq_of_lt hn

theorem scanNext_searching (i : Instr) {n : Nat} (hn : n < 65536) (s : State) :
    scanNext (s.searching i n) = scanOpAt n none := by
  have hk : (s.searching i n).kTmp.isSome = false := rfl
  rw [scanNext, hk, searching_seqIdx i hn]
  rfl

theorem scanNext_found (i : Instr) (k : Key) (s : State) :
    scanNext (s.found i k) = some (.write (rowLine (Fin.ofNat 4 (k.val / 3))) true) := by
  have hlt := readIndex_lt k
  have hk : (s.found i k).kTmp.isSome = false := rfl
  have hidx : (s.found i k).seqIdx.toNat = readIndex k + 1 := Nat.mod_eq_of_lt (by omega)
  rw [scanNext, hk, hidx, ← scanOpAt_found]
  rfl

theorem scanNext_scanned (i : Instr) (k : Option Key) (s : State) : scanNext (s.scanned i k) = none := by
  cases k <;> rfl

/-- One micro-operation of a scan. -/
theorem engineTurn_scanNote {i : Instr} (hi : Scans i) {u : State} {m : MicroOp} {a : Answer} (hr : u.Running)
    (hop : u.curOp = i.opcode) (hm : scanNext u = some m) (ha : a.fail = false) :
    engineTurn a u = .next ((scanNote m a u).performed m a) := by
  obtain ⟨hnext, hperform⟩ := hi
  rw [engineTurn_running hr, engineStep_perform (hop ▸ jobOf_opcode i) ((hnext u).trans hm), hperform]
  simp [scanStep, ha, microStep_success]

/-- R173: a write, or a column that reads high, notes nothing while no column has read low. -/
theorem scanNote_searching (i : Instr) (n : Nat) (s : State) {m : MicroOp} {a : Answer}
    (hhigh : ∀ l, m = .read l → a.col = true) : scanNote m a (s.searching i n) = s.searching i n := by
  unfold scanNote
  split
  · rw [if_pos (hhigh _ rfl)]
    rfl
  all_goals rfl

theorem engineRun_cons {a : Answer} {s t : State} (h : engineTurn a s = .next t) (rest : List Answer) :
    engineRun (a :: rest) s = engineRun rest t := by
  simp only [engineRun, h]

section

variable {i : Instr} (hi : Scans i) {s : State} (hr : s.Ready)
include hi hr

theorem engineTurn_searching {n : Nat} (hn : n < 20) {a : Answer} (ha : a.fail = false)
    (hhigh : ∀ l, scanSeq[n]? = some (.read l) → a.col = true) :
    engineTurn a (s.searching i n) = .next (s.searching i (n + 1)) := by
  obtain ⟨m, hm⟩ : ∃ m, scanSeq[n]? = some m := ⟨_, List.getElem?_eq_getElem hn⟩
  have hread (l : InLine) (hl : m = .read l) : a.col = true := hhigh l (hl ▸ hm)
  have hnext : scanNext (s.searching i n) = some m := by rw [scanNext_searching i (by omega), scanOpAt_searching, hm]
  rw [engineTurn_scanNote hi (u := s.searching i n) (accept_running hr i.opcode) rfl hnext ha,
    scanNote_searching i n s hread]
  have htrace : (scanTrace none).take (n + 1) =
      (scanTrace none).take n ++ [successEvent m a (s.searching i n).drive] := by
    rw [List.take_add_one, getElem?_scanTrace_none hm hread]
    rfl
  rw [State.searching, State.searching, htrace, after_take_succ _ _ _ _ hm, BitVec.ofNat_add, ← List.append_assoc]
  rfl

/-- The scan up to index `n`, if no key read before it reads low. -/
theorem engineRun_searching {answers : List Answer} (hnf : NoFailure answers) {n : Nat} (hn : n ≤ 20)
    (hlen : n ≤ answers.length) (hquiet : ∀ k, readIndex k < n → readsLow answers k = false) :
    engineRun (answers.take n) (accept i.opcode s) = .next (s.searching i n) := by
  induction n with
  | zero => rw [searching_zero]; rfl
  | succ n ih =>
    have ha : answers[n]? = some answers[n] := List.getElem?_eq_getElem hlen
    have hhigh (l : InLine) (hl : scanSeq[n]? = some (.read l)) : answers[n].col = true := by
      obtain ⟨k, rfl⟩ := exists_key_of_read hl
      simpa [readsLow_of_getElem? ha] using hquiet k (Nat.lt_succ_self _)
    rw [List.take_add_one, ha,
      engineRun_append _ _ _ (ih (by omega) (by omega) fun k hk => hquiet k (by omega))]
    simp only [Option.toList_some, engineRun,
      engineTurn_searching hi hr hn (hnf _ (List.mem_of_getElem? ha)) hhigh]

/-- R173: the read of a key whose column is low. -/
theorem engineTurn_readLow (k : Key) {a : Answer} (ha : a.fail = false) (hlow : a.col = false) :
    engineTurn a (s.searching i (readIndex k)) = .next (s.found i k) := by
  have hlt := readIndex_lt k
  have hidx := searching_seqIdx i (n := readIndex k) (by omega) s
  have hnext := (scanNext_searching i (by omega) s).trans (scanOpAt_readIndex k)
  have hnote : scanNote (.read (.col (Fin.ofNat 3 (k.val % 3)))) a (s.searching i (readIndex k)) =
      { s.searching i (readIndex k) with scanHit := some k } := by
    simp only [scanNote, hlow, Bool.false_eq_true, if_false, hidx, keyOf_readIndex]
  rw [engineTurn_scanNote hi (u := s.searching i (readIndex k)) (accept_running hr i.opcode) rfl hnext ha, hnote,
    State.found, BitVec.ofNat_add, ← List.append_assoc, ← hlow]
  rfl

/-- R173, R176: the write that restores the row of the key found. -/
theorem engineTurn_restore (hrows : s.drive.RowsHigh) (k : Key) {a : Answer} (ha : a.fail = false) :
    engineTurn a (s.found i k) = .next (s.scanned i (some k)) := by
  rw [engineTurn_scanNote hi (u := s.found i k) (accept_running hr i.opcode) rfl (scanNext_found i k s) ha]
  have hidx : BitVec.ofNat 16 (scanLength (some k)) = BitVec.ofNat 16 (readIndex k + 1) + 1#16 := by
    rw [scanLength_some, BitVec.ofNat_add]
  simp only [scanNote, State.performed, State.scanned, State.found, State.searching, hidx, scanTrace_some,
    after_write, after_nil, after_scanSeq_restore hrows, ← List.append_assoc]
  rfl

/-- R174, R175: the scan up to its completion step, with the first key that reads low. -/
theorem engineRun_scanned (hrows : s.drive.RowsHigh) {answers : List Answer} (hlen : 21 ≤ answers.length)
    (hnf : NoFailure answers) :
    ∃ a rest, engineRun answers (accept i.opcode s) = engineRun (a :: rest) (s.scanned i (firstLow answers)) := by
  have hsearch {n : Nat} (hn : n ≤ 20) (hquiet : ∀ k, readIndex k < n → readsLow answers k = false) :
      engineRun answers (accept i.opcode s) = engineRun (answers.drop n) (s.searching i n) := by
    rw [← engineRun_append _ _ _ (engineRun_searching hi hr hnf hn (by omega) hquiet), List.take_append_drop]
  cases hfirst : firstLow answers with
  | none =>
    have hquiet := firstLow_eq_none_iff.mp hfirst
    have hend : s.searching i 20 = s.scanned i none := by
      simp only [State.searching, State.scanned, List.take_of_length_le (show scanSeq.length ≤ 20 from le_rfl),
        after_scanSeq hrows, List.take_of_length_le (show (scanTrace none).length ≤ 20 from le_rfl), scanLength]
      rfl
    rw [hsearch le_rfl fun k _ => hquiet k, hend, List.drop_eq_getElem_cons (show 20 < answers.length from hlen)]
    exact ⟨_, _, rfl⟩
  | some k =>
    have hk := readIndex_lt k
    obtain ⟨hlow, hquiet⟩ := firstLow_eq_some_iff.mp hfirst
    have hget (n : Nat) (hn : n < answers.length) := hnf answers[n] (List.getElem_mem hn)
    rw [readsLow_of_getElem? (List.getElem?_eq_getElem (by omega)), Bool.not_eq_true'] at hlow
    rw [hsearch (by omega) fun k' hk' => hquiet k' (readIndex_mono.reflect_lt hk'),
      List.drop_eq_getElem_cons (by omega), engineRun_cons (engineTurn_readLow hi hr k (hget _ _) hlow),
      List.drop_eq_getElem_cons (by omega), engineRun_cons (engineTurn_restore hi hr hrows k (hget _ _)),
      List.drop_eq_getElem_cons (by omega)]
    exact ⟨_, _, rfl⟩

/-- SCAN_SEQ and the completion step, when no line operation fails. -/
theorem engineRun_scans (hrows : s.drive.RowsHigh) {answers : List Answer} (hlen : 21 ≤ answers.length)
    (hnf : NoFailure answers) :
    engineRun answers (accept i.opcode s) = .next (complete (.command i) (s.scanned i (firstLow answers))) := by
  obtain ⟨a, rest, h⟩ := engineRun_scanned hi hr hrows hlen hnf
  rw [h]
  have hend : nextOp (.command i) (s.scanned i (firstLow answers)) = none :=
    (hi.1 _).trans (scanNext_scanned i (firstLow answers) s)
  exact engineRun_complete (s := s.scanned i (firstLow answers)) (accept_running hr i.opcode) (jobOf_opcode i) hend a
    rest

end

/-! ### The keypad commands from request to completion (R180, R185) -/

/-- Settles O41: SCAN_SEQ to its completion step (`engineRun_scans`), which commits the encoded key. -/
theorem scanCompletes : Obligations.ScanCompletes := by
  intro s answers hr hrows hlen hnf
  refine ⟨accept 0x10#8 s, exec_of_legal hr rfl, ?_⟩
  refine (engineRun_scans scans_scan hr hrows hlen hnf).trans ?_
  cases firstLow answers <;>
    simp [complete, finish, scanCommit, State.scanned, accept, status_release hr, Instr.opcode, encKey_some]

/-- Settles O42: as for SCAN; the event is the key's unless the previous sample was that key (`pollEvent_some`). -/
theorem pollCompletes : Obligations.PollCompletes := by
  intro s answers hr hrows hlen hnf
  refine ⟨accept 0x11#8 s, exec_of_legal hr rfl, ?_⟩
  refine (engineRun_scans scans_poll hr hrows hlen hnf).trans ?_
  cases firstLow answers with
  | none => simp [complete, finish, pollCommit, State.scanned, accept, status_release hr, Instr.opcode, pollEvent]
  | some k =>
    simp only [complete, finish, pollCommit, State.scanned, accept, status_release hr, Instr.opcode, encKey_some,
      pollEvent_some, decKey_eq_some_keyBits_iff, keyEvent_eq_ofNat]

/-- R186: a poll after one that saw `k'` reports its key unless that was the one seen. -/
theorem pollEvent_encKey (k : Key) (k' : Option Key) :
    pollEvent (some k) (encKey k') = if k' = some k then 0#32 else keyEvent k := by
  have hsame : k'.map keyBits = some (keyBits k) ↔ k' = some k :=
    (Option.map_injective keyBits_injective).eq_iff (b := some k)
  simp only [pollEvent_some, decKey_encKey, hsame]

/-- Settles O44: the first poll leaves a ready block whose `PREV` is its sample, against which the second compares
(`pollEvent_encKey`). -/
theorem consecutivePollsAcceptEdges : Obligations.ConsecutivePollsAcceptEdges := by
  intro s first second hr hrows hlen hnf hlen' hnf'
  have hready := complete_ready (s := s.scanned .poll (firstLow first)) hr.2 (.command .poll)
  refine ⟨_, _, _, _, exec_of_legal hr rfl, engineRun_scans scans_poll hr hrows hlen hnf, exec_of_legal hready rfl,
    engineRun_scans scans_poll hready hrows hlen' hnf', fun k hk hne => ?_, fun h => ?_⟩
  · change pollEvent (firstLow second) (encKey (firstLow first)) = keyEvent k
    rw [hk, pollEvent_encKey, if_neg hne]
  · change pollEvent (firstLow second) (encKey (firstLow first)) = 0#32
    cases hk : firstLow second with
    | none => rfl
    | some k => rw [pollEvent_encKey, if_pos ((h.resolve_left (by simp [hk])).symm.trans hk)]

/-! ### A scan of the reference matrix (R172, R174) -/

/-- A run in an environment that answers from the state is a run with some answers, each of them the environment's in
the state the answers before it lead to. -/
theorem exists_engineRun_eq (env : State → Answer) (n : Nat) (s : State) :
    ∃ answers, answers.length = n ∧ engineRunWith env n s = engineRun answers s ∧ (∀ a ∈ answers, ∃ u, a = env u) ∧
      ∀ i < n, ∀ u, engineRun (answers.take i) s = .next u → answers[i]? = some (env u) := by
  induction n generalizing s with
  | zero => exact ⟨[], rfl, rfl, by simp, by simp⟩
  | succ n ih =>
    cases hturn : engineTurn (env s) s with
    | next t =>
      obtain ⟨answers, hlen, hrun, henv, hat⟩ := ih t
      refine ⟨env s :: answers, by simp [hlen], by simp only [engineRunWith, hturn, hrun, engineRun], ?_, ?_⟩
      · exact List.forall_mem_cons.mpr ⟨⟨s, rfl⟩, henv⟩
      · intro i hi u hu
        cases i with
        | zero => cases hu; rfl
        | succ i =>
          rw [List.take_succ_cons, engineRun_cons hturn] at hu
          exact hat i (by omega) u hu
    | _ =>
      refine ⟨List.replicate (n + 1) (env s), by simp, ?_, fun a ha => ⟨s, List.eq_of_mem_replicate ha⟩, ?_⟩
      · simp only [engineRunWith, hturn, List.replicate_succ, engineRun]
      · intro i hi u hu
        cases i with
        | zero => cases hu; rfl
        | succ i => simp [List.replicate_succ, engineRun, hturn] at hu

/-- R176: while a key is being read, its row is the only one driven low. -/
theorem lowRows_readIndex {d : Drive} (h : d.RowsHigh) (k : Key) :
    lowRows (d.after (scanSeq.take (readIndex k))) = [Fin.ofNat 4 (k.val / 3)] := by
  obtain ⟨clk, dio, _, _, _, _⟩ := d
  obtain ⟨rfl, rfl, rfl, rfl⟩ := h
  fin_cases k <;> rfl

/-- R171: the row and the column at which a key stands. -/
theorem keyOf_row_column (k : Key) : keyOf (Fin.ofNat 4 (k.val / 3)) (Fin.ofNat 3 (k.val % 3)) = k := by
  revert k
  decide

/-- R172: the reference matrix answers the read of a key by whether it is pressed. -/
theorem simulator_readIndex {s : State} (hrows : s.drive.RowsHigh) (pressed : List Key) (ack : Bool) (k : Key) :
    (simulator pressed ack (s.searching .scan (readIndex k))).col = !pressed.contains k := by
  have hlt := readIndex_lt k
  have hcol : columnNext (s.searching .scan (readIndex k)) = some (Fin.ofNat 3 (k.val % 3)) := by
    have hnext : nextOp (.command .scan) (s.searching .scan (readIndex k)) = _ :=
      (scanNext_searching .scan (by omega) s).trans (scanOpAt_readIndex k)
    have hjob : jobOf (s.searching .scan (readIndex k)).curOp = some (.command .scan) := rfl
    simp only [columnNext, hjob, hnext]
  have hlow : lowRows (s.searching .scan (readIndex k)).drive = _ := lowRows_readIndex hrows k
  simp only [simulator, hcol, matrixLevel, hlow, List.any_cons, List.any_nil, Bool.or_false, keyOf_row_column]

theorem leastKey_eq_some {pressed : List Key} {k : Key} (hk : k ∈ pressed) (hle : ∀ k' ∈ pressed, k ≤ k') :
    leastKey pressed = some k :=
  List.min?_eq_some_iff.mpr ⟨hk, hle⟩

/-- R174: where a key reads low exactly if it is pressed, as long as none before it does, the first is the least. -/
theorem firstLow_eq_leastKey {pressed : List Key} {answers : List Answer}
    (h : ∀ k, (∀ k' < k, readsLow answers k' = false) → (readsLow answers k = true ↔ k ∈ pressed)) :
    firstLow answers = leastKey pressed := by
  cases hfirst : firstLow answers with
  | none =>
    have hquiet := firstLow_eq_none_iff.mp hfirst
    have hnil : pressed = [] := List.eq_nil_iff_forall_not_mem.mpr fun k hk => by
      simpa [hquiet k] using (h k fun k' _ => hquiet k').mpr hk
    rw [hnil]
    rfl
  | some k =>
    obtain ⟨hlow, hquiet⟩ := firstLow_eq_some_iff.mp hfirst
    refine (leastKey_eq_some ((h k hquiet).mp hlow) fun k' hk' => not_lt.mp fun hlt => ?_).symm
    simpa [hquiet k' hlt] using (h k' fun k'' hk'' => hquiet k'' (hk''.trans hlt)).mpr hk'

/-- A scan in the reference matrix, as a run with answers whose first low column is the least key's. -/
theorem exists_matrix_answers {s : State} (hr : s.Ready) (hrows : s.drive.RowsHigh) (pressed : List Key) (ack : Bool) :
    ∃ answers, answers.length = 21 ∧ NoFailure answers ∧ firstLow answers = leastKey pressed ∧
      engineRunWith (simulator pressed ack) 21 (accept 0x10#8 s) = engineRun answers (accept 0x10#8 s) := by
  obtain ⟨answers, hlen, hrun, henv, hat⟩ := exists_engineRun_eq (simulator pressed ack) 21 (accept 0x10#8 s)
  have hnf : NoFailure answers := fun a ha => by
    obtain ⟨u, rfl⟩ := henv a ha
    rfl
  refine ⟨answers, hlen, hnf, firstLow_eq_leastKey fun k hquiet => ?_, hrun⟩
  have hlt := readIndex_lt k
  have hsearch := engineRun_searching scans_scan hr hnf (n := readIndex k) (by omega) (by omega)
    fun k' hk' => hquiet k' (readIndex_mono.reflect_lt hk')
  rw [readsLow_of_getElem? (hat _ (by omega) _ hsearch), simulator_readIndex hrows]
  simp

/-- Settles O45: the scan runs with answers whose first low column is the least key's (`exists_matrix_answers`). -/
theorem matrixScanReturnsLeastKey : Obligations.MatrixScanReturnsLeastKey := by
  intro s pressed ack hr hrows
  obtain ⟨answers, hlen, hnf, hfirst, hrun⟩ := exists_matrix_answers hr hrows pressed ack
  have hscan := engineRun_scans scans_scan hr hrows hlen.ge hnf
  rw [hfirst] at hscan
  refine ⟨_, _, exec_of_legal hr rfl, hrun.trans hscan, ?_, fun hnil => ?_, fun k hk hle => ?_⟩
  · exact status_release hr
  · rw [hnil]
    rfl
  · rw [leastKey_eq_some hk hle]
    exact encKey_some k

end Sys2Proof.Machine

namespace Sys2Proof.Machine

/-! ### Line faults (R204 to R207, R242) -/

/-- R207, R242: the cause a failing write of the job records. -/
def Job.writeCause : Job → Cause
  | .lineInit => .ioInit
  | .command _ => .ioDrive

/-- R242: the line initialization is the job of `CUR_OP = 0x00` and of no other. -/
theorem writeCause_of_jobOf {op : Byte} {j : Job} (h : jobOf op = some j) :
    j.writeCause = if op = 0x00#8 then .ioInit else .ioDrive := by
  unfold jobOf at h
  split at h
  · rename_i hop
    cases h
    exact (if_pos hop).symm
  · rename_i hop
    obtain ⟨i, _, rfl⟩ := Option.map_eq_some_iff.mp h
    exact (if_neg hop).symm

theorem microStep_write_fail (c : Cause) (l : OutLine) (v : Bool) {a : Answer} (ha : a.fail = true) (s : State) :
    microStep c (.write l v) a s = writeFault c l a s :=
  if_pos ha

theorem microStep_read_fail (c : Cause) (l : InLine) {a : Answer} (ha : a.fail = true) (s : State) :
    microStep c (.read l) a s = readFault .ioRead l s :=
  if_pos ha

/-- R110, R173: every job fails alike but for the cause of its writes; a scan notes nothing. -/
theorem perform_fail (j : Job) (m : MicroOp) {a : Answer} (ha : a.fail = true) (s : State) :
    perform j m a s = microStep j.writeCause m a s := by
  rcases j with _ | i
  · rfl
  · cases i
    case scan | poll => exact congrArg (microStep .ioDrive m a) (if_pos ha)
    all_goals rfl

/-- Settles O32: the step performs the micro-operation, which fails with the job's cause (`perform_fail`). -/
theorem lineFaultEntry : Obligations.LineFaultEntry := by
  intro s ts a j hts hr hj ha
  refine ⟨fun l v hm => ?_, fun l hm => ?_⟩
  · rw [step_perform hts hr hj hm, perform_fail j _ ha, microStep_write_fail _ l v ha, writeCause_of_jobOf hj]
    rfl
  · rw [step_perform hts hr hj hm, perform_fail j _ ha, microStep_read_fail _ l ha]
    rfl

/-! ### What cannot fail (R206) -/

/-- R13, R206: whatever the answer, a delay of any job succeeds. -/
theorem perform_delay (j : Job) (a : Answer) (s : State) : perform j .delay a s = s.performed .delay a := by
  rcases j with _ | i
  · rfl
  · cases i
    case scan | poll => exact congrArg (microStep .ioDrive .delay a) (ite_self s)
    all_goals rfl

/-- The step of a running engine at the end of its job. -/
theorem step_complete {s : State} {ts : List Turn} {a : Answer} {j : Job} (hts : s.turns = .engine a :: ts)
    (hr : s.Running) (hj : jobOf s.curOp = some j) (hn : nextOp j s = none) :
    step s = .next (complete j (s.withTurns ts)) := by
  have hr' : (s.withTurns ts).Running := hr
  rw [step_engine hts, engineTurn_running hr']
  exact engineStep_complete hj ((nextOp_withTurns j ts s).trans hn)

/-- Settles O33: a delay succeeds (`perform_delay`), and a completion step leaves the block ready. -/
theorem delayAndCompletionCannotFail : Obligations.DelayAndCompletionCannotFail := by
  intro s ts a j hts hr hj hm
  have hf : (s.withTurns ts).status.fault = false := hr.2
  rcases hm with hdelay | hend
  · refine ⟨_, step_perform hts hr hj hdelay, ?_⟩
    rw [perform_delay]
    exact hf
  · exact ⟨_, step_complete hts hr hj hend, (complete_ready hf j).2⟩

/-! ### The acknowledgment (R124, R213) -/

/-- The two states differ in the trace at most. -/
def State.SameButTrace (u t : State) : Prop := { u with trace := t.trace } = t

section

variable (a : Answer) (pull : Bool)

/-- R32: of an answer's `pull` a micro-operation makes nothing but the value of a DIO read, which it only traces. -/
theorem microStep_pull (c : Cause) (m : MicroOp) (s : State) :
    (microStep c m { a with pull := pull } s).SameButTrace (microStep c m a s) := by
  rcases a with ⟨fail, _, _, _⟩
  cases m with
  | write l v => cases fail <;> rfl
  | read l => cases fail <;> rfl
  | delay => rfl

theorem scanNote_pull (m : MicroOp) (s : State) : scanNote m { a with pull := pull } s = scanNote m a s := by
  unfold scanNote
  split <;> rfl

theorem perform_pull (j : Job) (m : MicroOp) (s : State) :
    (perform j m { a with pull := pull } s).SameButTrace (perform j m a s) := by
  rcases j with _ | i
  · exact microStep_pull a pull .ioInit m s
  · cases i
    case scan | poll =>
      simp only [perform, scanStep, scanNote_pull]
      exact microStep_pull a pull .ioDrive m _
    all_goals exact microStep_pull a pull .ioDrive m s

end

/-- Settles O35: only a micro-operation looks at the answer, and its `pull` reaches the trace only (`perform_pull`). -/
theorem acknowledgmentIsIgnored : Obligations.AcknowledgmentIsIgnored := by
  intro s t a pull h
  rcases engineTurn_cases h with ⟨hr, hstep⟩ | ⟨hr, rfl⟩
  · rw [engineTurn_running hr]
    obtain ⟨j, hj, ⟨m, hm, rfl⟩ | ⟨hn, rfl⟩⟩ := engineStep_cases hstep
    · exact ⟨_, engineStep_perform hj hm, perform_pull a pull j m s⟩
    · exact ⟨_, engineStep_complete hj hn, rfl⟩
  · exact ⟨_, engineTurn_not_running hr, rfl⟩

/-! ### A line initialization that fails (R214, R242) -/

/-- A reset block after `n` successful writes of the line initialization, with trace `tr`. -/
def State.initializing (n : Nat) (tr : List Event) (s : State) : State :=
  { resetStep s with
    seqIdx := BitVec.ofNat 16 n
    drive := s.drive.after (lineInitSeq.take n)
    trace := tr }

theorem initializing_running (n : Nat) (tr : List Event) (s : State) : (s.initializing n tr).Running := ⟨rfl, rfl⟩

theorem performed_initializing {n : Nat} {m : MicroOp} (hm : lineInitSeq[n]? = some m) (tr : List Event) (a : Answer)
    (s : State) : ∃ tr', (s.initializing n tr).performed m a = s.initializing (n + 1) tr' := by
  refine ⟨tr ++ [successEvent m a (s.initializing n tr).drive], ?_⟩
  rw [State.initializing, State.initializing, after_take_succ _ _ _ _ hm, BitVec.ofNat_add]
  rfl

theorem engineTurn_initializing {n : Nat} {m : MicroOp} (hm : lineInitSeq[n]? = some m) (tr : List Event) (a : Answer)
    (s : State) : engineTurn a (s.initializing n tr) = .next (microStep .ioInit m a (s.initializing n tr)) := by
  obtain ⟨hlt, _⟩ := List.getElem?_eq_some_iff.mp hm
  have hn : n < 6 := hlt
  have hidx : (s.initializing n tr).seqIdx.toNat = n := Nat.mod_eq_of_lt (by omega)
  have hnext : nextOp .lineInit (s.initializing n tr) = some m := by rw [nextOp, hidx, hm]
  rw [engineTurn_running (initializing_running n tr s)]
  exact engineStep_perform (j := .lineInit) rfl hnext

/-- R241: the line initialization as far as it has succeeded. -/
theorem engineRun_initializing (s : State) {good : List Answer} (hnf : NoFailure good) (hlen : good.length ≤ 6) :
    ∃ tr, engineRun good (resetStep s) = .next (s.initializing good.length tr) := by
  induction good using List.reverseRecOn with
  | nil => exact ⟨_, rfl⟩
  | append_singleton good a ih =>
    rw [List.length_append, List.length_singleton] at hlen ⊢
    obtain ⟨tr, hrun⟩ := ih (fun x hx => hnf x (List.mem_append_left _ hx)) (by omega)
    obtain ⟨m, hm⟩ : ∃ m, lineInitSeq[good.length]? = some m := ⟨_, List.getElem?_eq_getElem hlen⟩
    obtain ⟨tr', hnext⟩ := performed_initializing hm tr a s
    refine ⟨tr', ?_⟩
    rw [engineRun_append _ _ _ hrun, engineRun_cons (engineTurn_initializing hm tr a s),
      microStep_success _ m _ (hnf a (by simp)), hnext, engineRun]

/-- Settles O51: the failing write finds the lines as the writes before it left them (`engineRun_initializing`), and
the turns after its fault pass. -/
theorem failedLineInitIsAResetFault : Obligations.FailedLineInitIsAResetFault := by
  intro s good rest bad l hnf hbad hm
  obtain ⟨hlt, _⟩ := List.getElem?_eq_some_iff.mp hm
  obtain ⟨tr, hrun⟩ := engineRun_initializing s hnf (Nat.le_of_lt hlt)
  refine ⟨writeFault .ioInit l bad (s.initializing good.length tr), ?_, rfl, rfl⟩
  rw [engineRun_append _ _ _ hrun, engineRun_cons (engineTurn_initializing hm tr bad s),
    microStep_write_fail _ l true hbad]
  exact engineRun_not_running rest fun hr => Bool.false_ne_true hr.1

/-! ### A faulted block (R209, R210) -/

/-- R208, R209: whatever its word, a request made of a faulted block does nothing. -/
theorem writeCmd_faulted {s : State} (hf : s.status.fault = true) (w : Word) : writeCmd w s = .next s := by
  have hnot : s.status.fault ≠ false := by simp [hf]
  obtain ⟨t, ht⟩ : ∃ t, writeCmd w s = .next t := writeReg_next .cmd w s
  rcases writeCmd_cases ht with ⟨_, rfl⟩ | ⟨hr, _⟩ | ⟨hr, _⟩ | ⟨hr, _⟩
  · exact ht
  all_goals exact absurd hr.2 hnot

/-- Settles O13: the step is the `CMD` write, which does nothing (`writeCmd_faulted`). -/
theorem requestWhileFaultedIsIgnored : Obligations.RequestWhileFaultedIsIgnored :=
  fun s ts w hts hf => (step_cmdWrite hts).trans (writeCmd_faulted (s := s.withTurns ts) hf w)

theorem hostAccess_faulted {a : Access} {s t : State} (hf : s.status.fault = true) (h : hostAccess a s = .next t) :
    ∃ v rs, t = { s with arg := v, reads := rs } := by
  rcases hostAccess_cases h with ⟨r, rfl⟩ | ⟨v, rfl⟩ | rfl | ⟨w, hw⟩
  · exact ⟨_, _, rfl⟩
  · exact ⟨_, _, rfl⟩
  · exact ⟨_, _, rfl⟩
  · cases (writeCmd_faulted hf w).symm.trans hw
    exact ⟨_, _, rfl⟩

theorem engineTurn_faulted {a : Answer} {s t : State} (hf : s.status.fault = true) (h : engineTurn a s = .next t) :
    t = s := by
  rcases engineTurn_cases h with ⟨hr, _⟩ | ⟨_, ht⟩
  · exact absurd hr.2 (by simp [hf])
  · exact ht

/-- Settles O53: the host may write `ARG` and read (`hostAccess_faulted`), and the engine's turn passes. -/
theorem faultStaysUntilReset : Obligations.FaultStaysUntilReset := by
  intro s t hf h
  rcases step_cases h with ⟨ts, hts, _⟩ | ⟨a, ts, _, ha⟩ | ⟨a, ts, _, he⟩ | ⟨_, he⟩
  · exact .inl ⟨ts, hts⟩
  · obtain ⟨v, rs, rfl⟩ := hostAccess_faulted (s := s.withTurns ts) hf ha
    exact .inr ⟨v, rs, ts, s.drawn, rfl⟩
  · exact .inr ⟨s.arg, s.reads, ts, s.drawn, engineTurn_faulted (s := s.withTurns ts) hf he⟩
  · exact .inr ⟨s.arg, s.reads, s.turns, s.drawn + 1, engineTurn_faulted (s := { s with drawn := s.drawn + 1 }) hf he⟩

/-! ### Dispatch faults (R107, R202, R203) -/

theorem exec_of_illegal {i : Instr} {s : State} (hr : s.Ready) (hl : operandLegal i s.arg = false) :
    exec i s = .next (dispatchFault .illegalOperand i.opcode s) := by
  rw [exec_eq_request, hl, request_illegal _ hr]

/-- R85, R203: two commands check their operand. -/
theorem show_of_operand_illegal {i : Instr} {v : Word} (hl : operandLegal i v = false) :
    i = .showDigits ∨ i = .showBlanked := by
  cases i
  case showDigits => exact .inl rfl
  case showBlanked => exact .inr rfl
  all_goals cases hl

/-- Settles O9: the request is a dispatch fault (`exec_of_illegal`); a command that checks nothing is accepted. -/
theorem illegalOperandIsADispatchFault : Obligations.IllegalOperandIsADispatchFault := by
  refine ⟨fun s i hr hl => ⟨show_of_operand_illegal hl, exec_of_illegal hr hl⟩, fun s i hi hr => ?_⟩
  have hl : operandLegal i s.arg = true := by rcases hi with rfl | rfl | rfl | rfl <;> rfl
  exact ⟨_, exec_of_legal hr hl, (accept_running hr _).2⟩

/-- R81, R82: a word that is none of the six is no command. -/
theorem decode_unlisted {w : Word}
    (h : w ∉ [0x00000001#32, 0x00000002#32, 0x00000003#32, 0x00000010#32, 0x00000011#32, 0x00000012#32]) :
    ∃ e, decode w = .error e := by
  cases hd : decode w with
  | error e => exact ⟨e, rfl⟩
  | ok i =>
    rw [decode_eq_ok_iff.mp hd] at h
    refine absurd ?_ h
    cases i <;> decide

/-- R104, R202: the request of a ready block by a word that is no command. -/
theorem writeCmd_ready_of_error {w : Word} {e : DecodeError} (hd : decode w = .error e) {s : State} (hr : s.Ready) :
    writeCmd w s = .next (dispatchFault .illegalCommand (opcodeField w) s) := by
  obtain ⟨hbusy, hfault⟩ := hr
  simp [writeCmd, hd, illegalRequest, hbusy, hfault]

/-- Settles O10: the word does not decode (`decode_unlisted`), so its `CMD` write is a dispatch fault. -/
theorem unlistedWordIsADispatchFault : Obligations.UnlistedWordIsADispatchFault := by
  intro s ts w hts hr hw
  obtain ⟨e, hd⟩ := decode_unlisted hw
  exact (step_cmdWrite hts).trans (writeCmd_ready_of_error hd (s := s.withTurns ts) hr)

end Sys2Proof.Machine

namespace Sys2Proof.Machine

/-! ### Reset from any state and at power-on (R240, R241) -/

/-- Settles O48: the turn is the reset step (`step_reset`), which the obligation writes out field by field. -/
theorem resetStepFromAnyState : Obligations.ResetStepFromAnyState :=
  fun _ _ hts => step_reset hts

/-- Settles O50: power-on is the reset step of a state with these lines and no trace, so
`successfulResetReachesResetState` gives the state its line initialization leaves. -/
theorem powerOnReachesResetState : Obligations.PowerOnReachesResetState :=
  fun lines => successfulResetReachesResetState { State.reset with drive := lines, trace := [] }

end Sys2Proof.Machine
